-- ==== Sys2Proof/Word.lean ====
section
/-!
DEFINITION. The byte (00_scope.md R5, R6): every wire field, payload element, accumulator and catalog
field is 8 bits, unsigned, bit 0 least significant. `+` and `-` on `Byte` are the `+8` and `-8` of R7.
-/
namespace Sys2Proof

/-- `BYTE` of R5: 8 bits. -/
abbrev Byte := BitVec 8

end Sys2Proof
end

