-- ==== Sys2Proof/Config.lean ====
section
/-!
DEFINITION. The implementation parameters of 00_scope.md R5. A parameter the spec leaves OPEN is an opaque
constant: no proof can see which value it is.
-/
namespace Sys2Proof

/-- `MAX_PAYLOAD` (R5): the largest payload length a Packet holds. -/
def Config.maxPayload : Nat := 255

/-- `MAX_PAYLOAD_CK` (R5, D9): the largest payload length the framer accepts with `has_checksum` = 1. -/
def Config.maxPayloadCk : Nat := 254

/-- `KIND_3B` (R5, R17, D6): what this hardware drives on cfg_kind_3b, 0 = JoyStatusRequest. -/
def Config.kind3b : Bool := false

/-- `TIMEOUT_W` (R5, D5): OPEN. The width of a DECODE command's timeout; no rule reads its bits (log 7). -/
opaque Config.timeoutW : Nat

/-- A read timeout: TIMEOUT_W bits (R21, R57, R119; log 7). Its unit is the Transport's. -/
abbrev Timeout := BitVec Config.timeoutW

/-- `N_LINKS` (R5, R121, D24): OPEN. The number of block instances in a system (log 23). -/
opaque Config.nLinks : Nat

/-- `CYCLES_PER_STEP` (R5, R135, D4): OPEN. No rule depends on it (log 28). -/
opaque Config.cyclesPerStep : Nat

end Sys2Proof
end

