-- ==== Sys2Proof/Syntax.lean ====
section
/-!
DEFINITION. The instructions: one constructor per row of spec/opcode_table.json, and what an instruction
is encoded as: a record on one of the four host ports (30_encoding.md R56, R57, R63) or the header bytes
of a frame (R50, R51, R63).
-/
namespace Sys2Proof

/-- The closed enumeration of packet kinds, in the source's order (R59, R65). -/
inductive Kind where
  | lcdUpdate
  | lcdUpdateResponse
  | joyStatusRequest
  | joyStatusRequestResponse
  | joyVersionRequest
  | joyVersionRequestResponse
deriving DecidableEq, Repr, Inhabited

/-- The rows of the opcode table (R63). A host operation carries its record's fields (`len` is the number
of bytes listed, R64); the two accepting operations carry the host variable that receives the record (R85,
R101), numbered. A `frame` row is the deframer's dispatch on the header of its first three bytes; the
unknown-type row carries the TYPE byte that its mask leaves open. A DECODE carries TIMEOUT_W bits (R57). -/
inductive Instr where
  | encode (wireType : Byte) (hasChecksum : Bool) (payload : List Byte)
  | txdone (dst : Nat)
  | decode (timeout : Timeout)
  | rxres (dst : Nat)
  | frameLcdUpdate
  | frameLcdUpdateResponse
  | frameJoyStatusRequestResponse
  | frameJoyVersionRequest
  | frameJoyStatusRequest
  | frameJoyVersionRequestResponse
  | frameUnknown (wireType : Byte)
deriving DecidableEq, Repr

/-- The four host-side ports (R14). -/
inductive HostPort where
  | txCmd
  | txDone
  | rxCmd
  | rxRes
deriving DecidableEq, Repr

/-- What an operation is selected by (R63): a host port, or the header read on the receive port. -/
inductive Port where
  | host (p : HostPort)
  | rxRead
deriving DecidableEq, Repr

/-- The ENCODE command record of R56, field for field. -/
structure TxCmdRecord where
  wireType : Byte
  hasChecksum : Bool
  len : Byte
  payload : List Byte
deriving DecidableEq, Repr

/-- What the host offers on a port (R14): a command record, or its readiness to accept a result into a
host variable. -/
inductive Offer where
  | txCmd (r : TxCmdRecord)
  | txDone (dst : Nat)
  | rxCmd (timeout : Timeout)
  | rxRes (dst : Nat)
deriving DecidableEq, Repr

/-- What an instruction is encoded as (R63): an offer on a host port, or bytes of the receive stream, the
first byte first. -/
inductive Encoded where
  | host (o : Offer)
  | header (bytes : List Byte)
deriving DecidableEq, Repr

/-- The port an offer stands on. -/
def Offer.port : Offer → HostPort
  | .txCmd _ => .txCmd
  | .txDone _ => .txDone
  | .rxCmd _ => .rxCmd
  | .rxRes _ => .rxRes

/-- The port an encoded instruction is selected by. -/
def Encoded.port : Encoded → Port
  | .host o => .host o.port
  | .header _ => .rxRead

/-- The port of each row of the opcode table ("match" of its rows; R63). -/
def Instr.port : Instr → Port
  | .encode _ _ _ => .host .txCmd
  | .txdone _ => .host .txDone
  | .decode _ => .host .rxCmd
  | .rxres _ => .host .rxRes
  | .frameLcdUpdate => .rxRead
  | .frameLcdUpdateResponse => .rxRead
  | .frameJoyStatusRequestResponse => .rxRead
  | .frameJoyVersionRequest => .rxRead
  | .frameJoyStatusRequest => .rxRead
  | .frameJoyVersionRequestResponse => .rxRead
  | .frameUnknown _ => .rxRead

end Sys2Proof
end

