-- ==== Sys2Proof/Decode.lean ====
section
/-!
DEFINITION. The decoder and the encoder. A host operation is selected by the port its record stands on
(30_encoding.md R63); a frame row by the 24-bit header of the first three bytes, `hdr & mask = match`, the
unknown-type row only where no catalog row matches (R53, R63).
-/
namespace Sys2Proof

/-- Why an encoded form is no instruction. -/
inductive Reject where
  /-- the tx_cmd record's `len` is not the number of its payload bytes (R56) -/
  | payloadNotLen (len : Byte) (bytes : Nat)
  /-- fewer than three bytes: the header is not complete (R55) -/
  | headerTooShort (bytes : Nat)
  /-- the first byte is not SYNC1: the deframer raises RESYNC there (R54, R63) -/
  | notSync1 (b : Byte)
  /-- the second byte is not SYNC2: the deframer raises RESYNC there (R54, R63) -/
  | notSync2 (b : Byte)
deriving DecidableEq, Repr

/-- The decoder's answer. -/
inductive Decoded where
  | instr (i : Instr)
  | rejected (r : Reject)
deriving DecidableEq, Repr

/-- `hdr` of R51 and R63: SYNC1 in bits 23:16, SYNC2 in 15:8, TYPE in 7:0. -/
def headerWord (b0 b1 b2 : Byte) : BitVec 24 := b0 ++ b1 ++ b2

/-- A row of the table applies (R63): `hdr & mask = match`. -/
def rowMatches (hdr mask pattern : BitVec 24) : Bool := (hdr &&& mask) == pattern

/-- The frame rows of the opcode table in their priority (R53, R63). -/
def decodeHeader (kind3b : Bool) (hdr : BitVec 24) : Decoded :=
  if rowMatches hdr 0xFFFFFF 0xAA551E then .instr .frameLcdUpdate
  else if rowMatches hdr 0xFFFFFF 0xAA5516 then .instr .frameLcdUpdateResponse
  else if rowMatches hdr 0xFFFFFF 0xAA5539 then .instr .frameJoyStatusRequestResponse
  else if rowMatches hdr 0xFFFFFF 0xAA553A then .instr .frameJoyVersionRequest
  else if rowMatches hdr 0xFFFFFF 0xAA553B then
    match kind3b with
    | false => .instr .frameJoyStatusRequest
    | true => .instr .frameJoyVersionRequestResponse
  else if rowMatches hdr 0xFFFF00 0xAA5500 then .instr (.frameUnknown (hdr.extractLsb' 0 8))
  else if hdr.extractLsb' 16 8 != 0xAA then .rejected (.notSync1 (hdr.extractLsb' 16 8))
  else .rejected (.notSync2 (hdr.extractLsb' 8 8))

/-- The decoder, total on every record and every byte sequence; it reads the header's three bytes and none
after them (R63). -/
def decode (kind3b : Bool) : Encoded → Decoded
  | .host (.txCmd r) =>
    if r.payload.length = r.len.toNat then .instr (.encode r.wireType r.hasChecksum r.payload)
    else .rejected (.payloadNotLen r.len r.payload.length)
  | .host (.txDone dst) => .instr (.txdone dst)
  | .host (.rxCmd timeout) => .instr (.decode timeout)
  | .host (.rxRes dst) => .instr (.rxres dst)
  | .header (b0 :: b1 :: b2 :: _) => decodeHeader kind3b (headerWord b0 b1 b2)
  | .header bytes => .rejected (.headerTooShort bytes.length)

/-- The encoder: the record on its port (R56, R57, R63), or the three header bytes of a frame row (R50). -/
def encode : Instr → Encoded
  | .encode wireType hasChecksum payload =>
    .host (.txCmd ⟨wireType, hasChecksum, BitVec.ofNat 8 payload.length, payload⟩)
  | .txdone dst => .host (.txDone dst)
  | .decode timeout => .host (.rxCmd timeout)
  | .rxres dst => .host (.rxRes dst)
  | .frameLcdUpdate => .header [0xAA, 0x55, 0x1E]
  | .frameLcdUpdateResponse => .header [0xAA, 0x55, 0x16]
  | .frameJoyStatusRequestResponse => .header [0xAA, 0x55, 0x39]
  | .frameJoyVersionRequest => .header [0xAA, 0x55, 0x3A]
  | .frameJoyStatusRequest => .header [0xAA, 0x55, 0x3B]
  | .frameJoyVersionRequestResponse => .header [0xAA, 0x55, 0x3B]
  | .frameUnknown wireType => .header [0xAA, 0x55, wireType]

/-- The bytes of a table word, laid out as they cross the link: the header is one 24-bit word whose high
byte is the first on the wire (R51; log 26). Bits at and above `nbits` are 0. -/
def tableBytes (nbits w : Nat) : List Byte :=
  let hdr := w % 2 ^ nbits
  [BitVec.ofNat 8 (hdr / 65536), BitVec.ofNat 8 (hdr / 256), BitVec.ofNat 8 hdr]

/-- What the decoder reads from a table word, under this hardware's cfg_kind_3b (log 10). -/
def decodeTableWord (nbits w : Nat) : Option Instr :=
  match decode Config.kind3b (.header (tableBytes nbits w)) with
  | .instr i => some i
  | .rejected _ => none

end Sys2Proof
end

