-- ==== Sys2Proof/Machine/Regs.lean ====
section
/-!
DEFINITION. The engines' codes and registers: status codes (30_encoding.md R58), kind ids (R59), framer
states (R61), deframer states (R62), and the registers of both engines (10_state.md R20, R21).
A code the spec reserves (status 7, kind 6, rx_state 10 to 15: R54, I14, I15) has no constructor.
-/
namespace Sys2Proof.Machine

/-- The result classes (R58, R107). -/
inductive Status where
  | ok
  | okUnknownNoLen
  | resync
  | lengthMismatch
  | checksumMismatch
  | transportFailure
  | refusedLength
deriving DecidableEq, Repr, Inhabited

/-- The 3-bit code of R58. -/
def Status.code : Status → BitVec 3
  | .ok => 0
  | .okUnknownNoLen => 1
  | .resync => 2
  | .lengthMismatch => 3
  | .checksumMismatch => 4
  | .transportFailure => 5
  | .refusedLength => 6

/-- The class column of R58. -/
def Status.isSuccess : Status → Bool
  | .ok => true
  | .okUnknownNoLen => true
  | .resync => false
  | .lengthMismatch => false
  | .checksumMismatch => false
  | .transportFailure => false
  | .refusedLength => false

/-- `rx_kind` and the `kind` field of a result (R59): a kind, or UNKNOWN (7). -/
inductive KindId where
  | known (k : Kind)
  | unknown
deriving DecidableEq, Repr, Inhabited

/-- The 3-bit id of R59. -/
def KindId.code : KindId → BitVec 3
  | .known .lcdUpdate => 0
  | .known .lcdUpdateResponse => 1
  | .known .joyStatusRequest => 2
  | .known .joyStatusRequestResponse => 3
  | .known .joyVersionRequest => 4
  | .known .joyVersionRequestResponse => 5
  | .unknown => 7

/-- The framer's states (R61). -/
inductive TxState where
  | idle
  | sync1
  | sync2
  | type
  | len
  | payload
  | ck
  | done
deriving DecidableEq, Repr, Inhabited

/-- The 3-bit code of R61. -/
def TxState.code : TxState → BitVec 3
  | .idle => 0
  | .sync1 => 1
  | .sync2 => 2
  | .type => 3
  | .len => 4
  | .payload => 5
  | .ck => 6
  | .done => 7

/-- The deframer's states (R62). -/
inductive RxState where
  | idle
  | sync1
  | sync2
  | type
  | probe
  | len
  | payload
  | ck
  | done
  | failed
deriving DecidableEq, Repr, Inhabited

/-- The 4-bit code of R62; it is also what `phase` holds (R60). -/
def RxState.code : RxState → BitVec 4
  | .idle => 0
  | .sync1 => 1
  | .sync2 => 2
  | .type => 3
  | .probe => 4
  | .len => 5
  | .payload => 6
  | .ck => 7
  | .done => 8
  | .failed => 9

/-- A payload buffer: 256 bytes, indexed 0 to 255 (R20, R21, R38). -/
abbrev Buf := Vector Byte 256

/-- The framer's registers, one field per row of R20. -/
structure TxRegs where
  /-- tx_state -/
  state : TxState
  /-- tx_type -/
  wireType : Byte
  /-- tx_hc -/
  hc : Bool
  /-- tx_len -/
  len : Byte
  /-- tx_buf -/
  buf : Buf
  /-- tx_idx, 9 bits -/
  idx : BitVec 9
  /-- tx_acc -/
  acc : Byte
  /-- tx_status -/
  status : Status
deriving DecidableEq, Repr, Inhabited

/-- The deframer's registers, one field per row of R21. -/
structure RxRegs where
  /-- rx_state -/
  state : RxState
  /-- rx_tmo, TIMEOUT_W bits (R119), an OPEN width (log 7) -/
  tmo : Timeout
  /-- rx_type -/
  wireType : Byte
  /-- rx_kind -/
  kind : KindId
  /-- rx_hc -/
  hc : Bool
  /-- rx_size -/
  size : Byte
  /-- rx_buf -/
  buf : Buf
  /-- rx_idx, 9 bits -/
  idx : BitVec 9
  /-- rx_acc -/
  acc : Byte
  /-- rx_status -/
  status : Status
  /-- rx_phase -/
  phase : RxState
deriving DecidableEq, Repr, Inhabited

end Sys2Proof.Machine
end

