-- ==== Sys2Proof/Machine/State.lean ====
section
/-!
DEFINITION. The machine's state as plain data: both engines' registers (10_state.md R20, R21), the
Transport with its streams, pushback slot and level inputs (R15, R26, 20_memory.md R36, R37), the
configuration and reset inputs (R16), the host side of the four ports (R14), and the tape of what the
agents do next (R13, R33, R35; log 1). The reasons a step can stop. The state right after reset (R28).
-/
namespace Sys2Proof.Machine

/-- The three answers of a Read (R29). -/
inductive ReadAnswer where
  | byte (b : Byte)
  | timeout
  | error
deriving DecidableEq, Repr

/-- The three answers of a Peek (R30): `ready b` is the spec's `Some(b)`, `nothing` its `None`. -/
inductive PeekAnswer where
  | ready (b : Byte)
  | nothing
  | error
deriving DecidableEq, Repr

/-- The two answers of a Write (R31). -/
inductive WriteAnswer where
  | ok
  | error
deriving DecidableEq, Repr

/-- The Transport's choice at a Read or a Peek (R35): to answer as the deterministic Transport does
(`prompt`), to let the timeout pass (`late`: Timeout for a Read that R32 does not bind, None for a Peek), or to
fail. The byte of an answer is no choice: it is the stream's next byte. -/
inductive Draw where
  | prompt
  | late
  | error
deriving DecidableEq, Repr

/-- One transaction on rx_read or rx_peek: the request's timeout and the answer (R15, R29, R30). -/
inductive RxTransaction where
  | read (timeout : Timeout) (answer : ReadAnswer)
  | peek (timeout : Nat) (answer : PeekAnswer)
deriving DecidableEq, Repr

/-- One transaction on tx_write: the byte and the answer (R15, R31). -/
structure TxTransaction where
  byte : Byte
  answer : WriteAnswer
deriving DecidableEq, Repr

/-- The DECODE result record of R60: a Packet with its status and kind, or a failure's status and phase. A
field the record does not have (I13) stands in neither constructor. -/
inductive RxRecord where
  | packet (status : Status) (kind : KindId) (wireType : Byte) (hasChecksum : Bool) (len : Byte)
      (payload : List Byte)
  | failure (status : Status) (phase : RxState)
deriving DecidableEq, Repr

/-- What a host variable holds (R64): the record of tx_done (R85) or of rx_res (R101). -/
inductive HostRecord where
  | txDone (status : Status)
  | rxRes (r : RxRecord)
deriving DecidableEq, Repr

/-- One move of one agent (R13), with the Transport's choice where the move makes a transaction (R33). -/
inductive Input where
  /-- the Host offers a command, or stands ready to accept a result (R14) -/
  | offer (o : Offer)
  /-- the handshake of a host port is tried on its oldest offer (R14) -/
  | host (p : HostPort)
  /-- the framer's turn, and the answer of its Write if it makes one -/
  | framer (a : WriteAnswer)
  /-- the deframer's turn, and the Transport's choice for its Read or Peek if it makes one -/
  | deframer (d : Draw)
  /-- the remote sender appends bytes to the receive stream (R36) -/
  | arrive (bs : List Byte)
  /-- rst is driven (R124): asserted (`true`) or released (`false`) -/
  | rst (level : Bool)
  /-- cfg_kind_3b and cfg_peek_timeout are driven (R16) -/
  | config (kind3b : Bool) (peekTimeout : Nat)
  /-- link_open is driven (R15) -/
  | link (isOpen : Bool)
  /-- rx_avail is driven (R15) -/
  | avail (level : Bool)
deriving DecidableEq, Repr

/-- The Transport (R15, R26, R36, R37). -/
structure Transport where
  /-- the pushback slot (R32): the byte a Peek has seen and no Read has consumed -/
  pushback : Option Byte
  /-- the duty of R32: a Peek has answered Some with the byte in the slot, and no Read has been answered since,
  so the next Read answers that byte or Error; after that Read any answer of R35 is possible again (log 13) -/
  duty : Bool
  /-- the receive stream behind the pushback slot, next byte first (R36) -/
  line : List Byte
  /-- the transmit stream, first byte first (R37) -/
  sink : List Byte
  /-- link_open (R15, R34) -/
  isOpen : Bool
  /-- rx_avail (R15); no rule reads it (R34) -/
  avail : Bool
  /-- the model's history of rx_read and rx_peek, oldest first (log 22) -/
  rxLog : List RxTransaction
  /-- the model's history of tx_write, oldest first (log 22) -/
  txLog : List TxTransaction
deriving DecidableEq, Repr

/-- The configuration inputs and the reset input (R16). -/
structure Inputs where
  /-- cfg_kind_3b (R17) -/
  kind3b : Bool
  /-- cfg_peek_timeout (R18) -/
  peekTimeout : Nat
  /-- rst (R124) -/
  rst : Bool
deriving DecidableEq, Repr

/-- The host side of the four ports (R14): what is offered and not yet accepted, oldest first, and the host
variables, as pairs of number and record with the numbers strictly rising (log 5). -/
structure Ports where
  txCmd : List TxCmdRecord
  txDone : List Nat
  rxCmd : List Timeout
  rxRes : List Nat
  vars : List (Nat × HostRecord)
deriving DecidableEq, Repr

/-- The whole machine of one link. -/
structure State where
  tx : TxRegs
  rx : RxRegs
  link : Transport
  cfg : Inputs
  ports : Ports
  /-- the moves still to come, next first (log 1) -/
  tape : List Input
  /-- how many times rst has acted (log 4) -/
  resets : Nat
deriving DecidableEq, Repr

/-- Why the machine stops with a fault. -/
inductive Fault where
  /-- Raised by the TX_PAYLOAD step when tx_idx is beyond the buffer (R20, R22). Safe: no run reaches it. -/
  | txIndexBeyondBuffer
  /-- Raised by the RX_PAYLOAD step when rx_idx is beyond the buffer (R21, R22). Safe: no run reaches it. -/
  | rxIndexBeyondBuffer
  /-- Raised when cfg_kind_3b or cfg_peek_timeout changes while rx_busy is 1: "A model may treat that change
  as a fault" (R127, I16). Safe: the run is outside the spec. -/
  | configChangedWhileBusy
deriving DecidableEq, Repr

/-- Why the machine has no meaning for what it is given. -/
inductive Refusal where
  /-- Raised by an arm of exec whose instruction has no meaning yet (no arm is left). Safe. -/
  | notModelled (mnemonic : String)
  /-- Raised by the fetch when a port record or a header decodes to no instruction: a tx_cmd record whose
  len is not its payload's length cannot exist (R56). Safe: the spec has no such transaction. -/
  | undecodable (r : Reject)
  /-- Raised by ENCODE for a payload of more than 255 bytes, which no tx_cmd record holds (R24, R56); the
  decoder gives no such term. Safe. -/
  | payloadBeyondRecord
deriving DecidableEq, Repr

/-- A payload buffer of zeros (DESIGN CHOICE for reset, log 3). -/
def Buf.zeros : Buf := Vector.replicate 256 0

/-- The framer's registers right after reset: TX_IDLE (R28); every other value is the model's (log 3). -/
def TxRegs.reset : TxRegs :=
  { state := .idle, wireType := 0, hc := false, len := 0, buf := Buf.zeros, idx := 0, acc := 0,
    status := .ok }

/-- The deframer's registers right after reset: RX_IDLE (R28); every other value is the model's (log 3). -/
def RxRegs.reset : RxRegs :=
  { state := .idle, tmo := 0, wireType := 0, kind := .known .lcdUpdate, hc := false, size := 0,
    buf := Buf.zeros, idx := 0, acc := 0, status := .ok, phase := .idle }

/-- The Transport when the block comes out of its first reset: an open link (R125) and nothing on it
(DESIGN CHOICE, logs 9 and 31). -/
def Transport.reset : Transport :=
  { pushback := none, duty := false, line := [], sink := [], isOpen := true, avail := false, rxLog := [], txLog := [] }

/-- The inputs: this hardware's cfg_kind_3b (R17, R28), rst released, cfg_peek_timeout 0 (DESIGN CHOICE,
log 8). -/
def Inputs.reset : Inputs := { kind3b := Config.kind3b, peekTimeout := 0, rst := false }

/-- Nothing offered, no host variable written. -/
def Ports.reset : Ports := { txCmd := [], txDone := [], rxCmd := [], rxRes := [], vars := [] }

/-- The machine right after reset (R28, R124). -/
def State.reset : State :=
  { tx := TxRegs.reset, rx := RxRegs.reset, link := Transport.reset, cfg := Inputs.reset,
    ports := Ports.reset, tape := [], resets := 0 }

end Sys2Proof.Machine
end

