-- ==== Sys2Proof/Machine/Flags.lean ====
section
/-!
DEFINITION. The status flags, functions of the state registers (10_state.md R23), and the checksum and LEN
arithmetic of both engines (00_scope.md R7, 30_encoding.md R52, R88, R105).
-/
namespace Sys2Proof.Machine

/-- tx_busy (R23). -/
def State.txBusy (s : State) : Bool := s.tx.state != .idle

/-- tx_done_valid (R23). -/
def State.txDoneValid (s : State) : Bool := s.tx.state == .done

/-- rx_busy (R23). -/
def State.rxBusy (s : State) : Bool := s.rx.state != .idle

/-- rx_res_valid (R23). -/
def State.rxResValid (s : State) : Bool := s.rx.state == .done || s.rx.state == .failed

/-- `sum8(s)`: the `+8` fold of a byte sequence starting at 0 (R7). -/
def sum8 : List Byte → Byte
  | [] => 0
  | b :: bs => b + sum8 bs

/-- CHECKSUM = `0 -8 sum8(payload)` (R52). -/
def checksumOf (payload : List Byte) : Byte := 0 - sum8 payload

/-- `zext_8` of a flag (R6, R52). -/
def zextFlag (hc : Bool) : Byte := if hc then 1 else 0

/-- LEN as the framer sends it: `n +8 zext_8(has_checksum)` (R52, R80). -/
def lenByte (n : Byte) (hc : Bool) : Byte := n + zextFlag hc

/-- The LEN a known kind expects: `payload_size + has_checksum`, no wrap (R52, R96). -/
def expectedLen (size : Byte) (hc : Bool) : Nat := size.toNat + (zextFlag hc).toNat

end Sys2Proof.Machine
end

