-- ==== Sys2Proof/Machine/FreeValues.lean ====
section
/-!
DEFINITION. The free values of a block reset (10_state.md R28, I11; log 4): opaque constants, so no proof can
see which value they are.
-/
namespace Sys2Proof

/-- FREE VALUE (log 4): what the framer's registers other than tx_state hold after the n-th block reset,
"unspecified" by R28 and R124. -/
opaque Config.txAfterReset : Nat → Machine.TxRegs

/-- FREE VALUE (log 4): what the deframer's registers other than rx_state hold after the n-th block reset,
"unspecified" by R28 and R124. -/
opaque Config.rxAfterReset : Nat → Machine.RxRegs

end Sys2Proof
end

