-- ==== Sys2Proof/Machine/Operands.lean ====
section
/-!
DEFINITION. What operations read and write: a payload buffer's elements (20_memory.md R38, 10_state.md R20,
R21), the Packet and the result record (R24, 30_encoding.md R60), and the host variables (R64).
-/
namespace Sys2Proof.Machine

/-- `Packet(wire_type, payload, has_checksum)` (R10, R24). -/
structure Packet where
  wireType : Byte
  payload : List Byte
  hasChecksum : Bool
deriving DecidableEq, Repr

/-- Element `i` of a buffer; `none` beyond index 255. -/
def Buf.read (buf : Buf) (i : Nat) : Option Byte := buf[i]?

/-- `buf[i] <- b`; `none` beyond index 255. -/
def Buf.write (buf : Buf) (i : Nat) (b : Byte) : Option Buf :=
  if h : i < 256 then some (buf.set i b h) else none

/-- `buf[i .. )` written with the bytes of a list, in order; bytes that would fall beyond the end are not
written. -/
def Buf.loadFrom (buf : Buf) (i : Nat) : List Byte → Buf
  | [] => buf
  | b :: bs => Buf.loadFrom (buf.setIfInBounds i b) (i + 1) bs

/-- `for i in 0 .. n-1: buf[i] <- p[i]`, the deep copy of ENCODE acceptance (R38, R76). -/
def Buf.load (buf : Buf) (p : List Byte) : Buf := Buf.loadFrom buf 0 p

/-- `buf[0 .. n)` (R8, R101). -/
def Buf.take (buf : Buf) (n : Nat) : List Byte := buf.toList.take n

/-- The record rx_res offers (R60, R101). -/
def RxRegs.record (r : RxRegs) : RxRecord :=
  if r.state = .done then
    .packet r.status r.kind r.wireType r.hc r.size (Buf.take r.buf r.size.toNat)
  else .failure r.status r.phase

/-- A host variable's record, if one was received into it. -/
def readVar : List (Nat × HostRecord) → Nat → Option HostRecord
  | [], _ => none
  | (k, r) :: rest, v => if k = v then some r else readVar rest v

/-- A record received into a host variable; the list stays in rising order, one entry a variable. -/
def writeVar (v : Nat) (r : HostRecord) : List (Nat × HostRecord) → List (Nat × HostRecord)
  | [] => [(v, r)]
  | (k, q) :: rest =>
    if v < k then (v, r) :: (k, q) :: rest
    else if v = k then (v, r) :: rest
    else (k, q) :: writeVar v r rest

/-- The canonical form of the host variables: numbers strictly rising. -/
abbrev varsOk (vars : List (Nat × HostRecord)) : Prop := (vars.map Prod.fst).Pairwise (· < ·)

end Sys2Proof.Machine
end

