-- ==== Sys2Proof/Machine/Ops.lean ====
section
/-!
DEFINITION. The operations the engines share: the Transport's transactions (20_memory.md R29 to R37), the
framer's finish (41_framer.md R84), the deframer's finish and raise (42_deframer.md R100, 60_exceptions.md
R114), the return of both to idle (R116), and the block's reset (70_reset_and_hazards.md R124).
-/
namespace Sys2Proof.Machine

/-- The receive stream as it stands for the next Read or Peek: the pushback byte, if any, and then the line
(R32, R36). -/
def Transport.unread (l : Transport) : List Byte := l.pushback.toList ++ l.line

/-- The deterministic Transport's answer to a Read (R35): the stream's first byte, if there is one. -/
def Transport.promptRead (l : Transport) : ReadAnswer :=
  match l.unread with
  | b :: _ => .byte b
  | [] => .timeout

/-- The answer of a Read (R29): Error on a closed link (R34); else the draw's, the byte being the stream's
first (R35). The next Read after a Peek answered Some(b) answers Byte(b) or Error, never Timeout (R32); any other
Read may answer Timeout, with a byte in the slot too (R35 item 4; log 13). -/
def Transport.readAnswer (l : Transport) (d : Draw) : ReadAnswer :=
  if l.isOpen = false then .error
  else
    match d with
    | .error => .error
    | .prompt => l.promptRead
    | .late => if l.duty = true then l.promptRead else .timeout

/-- The Transport after a Read with timeout `t` (R29, R36): an answered byte leaves the stream, nothing else
does. Whatever the answer, the pushback duty has been met (R32: it binds the next Read). -/
def Transport.afterRead (l : Transport) (t : Timeout) (d : Draw) : Transport :=
  match l.readAnswer d with
  | .byte b =>
    { l with
      pushback := none
      duty := false
      line := l.unread.tail
      rxLog := l.rxLog ++ [.read t (.byte b)] }
  | a => { l with duty := false, rxLog := l.rxLog ++ [.read t a] }

/-- The answer of a Peek (R30): Error on a closed link (R34); else the draw's (R35). -/
def Transport.peekAnswer (l : Transport) (d : Draw) : PeekAnswer :=
  if l.isOpen = false then .error
  else
    match d, l.unread with
    | .error, _ => .error
    | .late, _ => .nothing
    | .prompt, b :: _ => .ready b
    | .prompt, [] => .nothing

/-- The Transport after a Peek with timeout `t` (R30, R32): the byte seen is held in the pushback slot and
stays the stream's first, and the next Read owes it. -/
def Transport.afterPeek (l : Transport) (t : Nat) (d : Draw) : Transport :=
  match l.peekAnswer d with
  | .ready b =>
    { l with
      pushback := some b
      duty := true
      line := l.unread.tail
      rxLog := l.rxLog ++ [.peek t (.ready b)] }
  | a => { l with rxLog := l.rxLog ++ [.peek t a] }

/-- The answer of a Write: the drawn one, Error on a closed link (R31, R34). -/
def Transport.writeAnswer (l : Transport) (a : WriteAnswer) : WriteAnswer :=
  if l.isOpen = false then .error else a

/-- The Transport after a Write of `b` (R31, R37): Ok appends the byte, Error appends nothing. -/
def Transport.afterWrite (l : Transport) (b : Byte) (a : WriteAnswer) : Transport :=
  match l.writeAnswer a with
  | .ok => { l with sink := l.sink ++ [b], txLog := l.txLog ++ [⟨b, .ok⟩] }
  | .error => { l with txLog := l.txLog ++ [⟨b, .error⟩] }

/-- `finish S` in the framer (R84). -/
def TxRegs.finish (r : TxRegs) (st : Status) : TxRegs := { r with status := st, state := .done }

/-- `finish S` in the deframer (R100). -/
def RxRegs.finish (r : RxRegs) (st : Status) : RxRegs := { r with status := st, state := .done }

/-- `raise F(phase)` (R114): entering a failure. The registers are those the step has otherwise written. -/
def RxRegs.raise (r : RxRegs) (f : Status) (phase : RxState) : RxRegs :=
  { r with status := f, phase := phase, state := .failed }

/-- Leaving a framer result (R85, R116): the host's TXDONE returns the framer to TX_IDLE. -/
def TxRegs.toIdle (r : TxRegs) : TxRegs := { r with state := .idle }

/-- Leaving a deframer result, a failure or not (R101, R116): the host's RXRES returns it to RX_IDLE. -/
def RxRegs.toIdle (r : RxRegs) : RxRegs := { r with state := .idle }

/-- One framer step that writes `b` (R33, R77 to R82): on Error the step finishes TRANSPORT_FAILURE (R83),
on Ok the framer's registers become `r`. -/
def State.sendByte (s : State) (a : WriteAnswer) (b : Byte) (r : TxRegs) : State :=
  { s with
    link := s.link.afterWrite b a
    tx := match s.link.writeAnswer a with
      | .ok => r
      | .error => s.tx.finish .transportFailure }

/-- The state after the deframer's Read with timeout rx_tmo (R29). -/
def State.afterRead (s : State) (d : Draw) : State := { s with link := s.link.afterRead s.rx.tmo d }

/-- One deframer step that reads (R33, R99): Timeout or Error raises TRANSPORT_FAILURE with the state of the
step as its phase, a byte gives the registers `onByte` says. -/
def State.receiveByte (s : State) (d : Draw) (onByte : Byte → RxRegs) : State :=
  { s.afterRead d with
    rx := match s.link.readAnswer d with
      | .byte b => onByte b
      | .timeout => s.rx.raise .transportFailure s.rx.state
      | .error => s.rx.raise .transportFailure s.rx.state }

/-- The block's reset (R124): both engines to idle; every other register takes a free value (R28; log 4);
the Transport, the inputs and what the host offers are untouched. -/
def State.blockReset (s : State) : State :=
  { s with
    tx := { Config.txAfterReset s.resets with state := .idle }
    rx := { Config.rxAfterReset s.resets with state := .idle }
    resets := s.resets + 1 }

/-- An offer placed on its port (R14): it stands behind the offers not yet accepted there. -/
def Ports.place (p : Ports) : Offer → Ports
  | .txCmd r => { p with txCmd := p.txCmd ++ [r] }
  | .txDone v => { p with txDone := p.txDone ++ [v] }
  | .rxCmd t => { p with rxCmd := p.rxCmd ++ [t] }
  | .rxRes v => { p with rxRes := p.rxRes ++ [v] }

/-- The oldest offer on a port. -/
def Ports.head? (p : Ports) : HostPort → Option Offer
  | .txCmd => p.txCmd.head?.map .txCmd
  | .txDone => p.txDone.head?.map .txDone
  | .rxCmd => p.rxCmd.head?.map .rxCmd
  | .rxRes => p.rxRes.head?.map .rxRes

/-- The handshake of a port completes (R14): its oldest offer is no longer offered. -/
def Ports.take (p : Ports) : HostPort → Ports
  | .txCmd => { p with txCmd := p.txCmd.tail }
  | .txDone => { p with txDone := p.txDone.tail }
  | .rxCmd => { p with rxCmd := p.rxCmd.tail }
  | .rxRes => { p with rxRes := p.rxRes.tail }

end Sys2Proof.Machine
end

