-- ==== Sys2Proof/Machine/Deframer.lean ====
section
/-!
DEFINITION. The deframer: the host operations DECODE (42_deframer.md R91) and RXRES (R101), and the
deframer's own steps (R92, R93, R95 to R99). RX_TYPE's read is the fetch of a frame row (Machine/Fetch.lean)
and its dispatch the row's meaning (Machine/Frames.lean). Register writes land at the end of the step (R9).
-/
namespace Sys2Proof.Machine

/-- DECODE (R91). Enabled when rx_state = RX_IDLE; otherwise, and while rst is asserted (R124), the command
stays offered (R14). -/
def execDecode (timeout : Timeout) (s : State) : Host.Outcome State Fault Refusal :=
  if s.rx.state = .idle ∧ s.cfg.rst = false then
    .next
      { s with
        rx := { s.rx with tmo := timeout, acc := 0, idx := 0, state := .sync1 }
        ports := s.ports.take .rxCmd }
  else .next s

/-- RXRES (R101). Enabled when rx_state is RX_DONE or RX_FAILED; otherwise the host goes on waiting (R14). -/
def execRxres (dst : Nat) (s : State) : Host.Outcome State Fault Refusal :=
  if s.rx.state = .done ∨ s.rx.state = .failed then
    .next
      { s with
        rx := s.rx.toIdle
        ports :=
          { s.ports.take .rxRes with vars := writeVar dst (.rxRes s.rx.record) s.ports.vars } }
  else .next s

/-- RX_SYNC1 (R92). -/
def rxSync1Step (d : Draw) (s : State) : State :=
  s.receiveByte d fun b =>
    if b = 0xAA then { s.rx with state := .sync2 } else s.rx.raise .resync .sync1

/-- RX_SYNC2 (R93). -/
def rxSync2Step (d : Draw) (s : State) : State :=
  s.receiveByte d fun b =>
    if b = 0x55 then { s.rx with state := .type } else s.rx.raise .resync .sync2

/-- RX_PROBE (R95): the lookahead probe after an unknown type. -/
def rxProbeStep (d : Draw) (s : State) : State :=
  { s with
    link := s.link.afterPeek s.cfg.peekTimeout d
    rx := match s.link.peekAnswer d with
      | .nothing => { s.rx with size := 0 }.finish .okUnknownNoLen
      | .ready _ => { s.rx with state := .len }
      | .error => s.rx.raise .transportFailure .probe }

/-- What RX_LEN does with the LEN byte (R96). -/
def RxRegs.afterLenByte (r : RxRegs) (l : Byte) : RxRegs :=
  match r.kind with
  | .known _ =>
    if l.toNat = expectedLen r.size r.hc then { r with state := .payload }
    else r.raise .lengthMismatch .len
  | .unknown =>
    if l = 0 then r.raise .lengthMismatch .len
    else if l = 1 then { r with size := l - 1, state := .ck }
    else { r with size := l - 1, state := .payload }

/-- RX_LEN (R96). -/
def rxLenStep (d : Draw) (s : State) : State := s.receiveByte d s.rx.afterLenByte

/-- What RX_PAYLOAD leaves in the registers once byte `b` is in the buffer (R97); the test is on the new
index. -/
def RxRegs.afterPayloadByte (r : RxRegs) (b : Byte) (buf : Buf) : RxRegs :=
  let i := r.idx.toNat + 1
  let r' := { r with buf := buf, acc := r.acc + b, idx := BitVec.ofNat 9 i }
  if i < r.size.toNat then r'
  else if r.hc = true then { r' with state := .ck }
  else r'.finish .ok

/-- RX_PAYLOAD (R97). -/
def rxPayloadStep (d : Draw) (s : State) : Host.Outcome State Fault Refusal :=
  match s.link.readAnswer d with
  | .byte b =>
    match s.rx.buf.write s.rx.idx.toNat b with
    | some buf => .next (s.receiveByte d fun b => s.rx.afterPayloadByte b buf)
    | none => .fault .rxIndexBeyondBuffer
  | _ => .next (s.receiveByte d fun _ => s.rx)

/-- What RX_CK does with the checksum byte (R98): it is added before the test. -/
def RxRegs.afterCkByte (r : RxRegs) (c : Byte) : RxRegs :=
  let r' := { r with acc := r.acc + c }
  if r.acc + c = 0 then r'.finish .ok else r'.raise .checksumMismatch .ck

/-- RX_CK (R98). -/
def rxCkStep (d : Draw) (s : State) : State := s.receiveByte d s.rx.afterCkByte

/-- The deframer's turn in every state but RX_TYPE, whose step fetches a frame row: the step of its state
(R62). In RX_IDLE, RX_DONE and RX_FAILED it has no step of its own (R100, R116). -/
def rxStep (d : Draw) (s : State) : Host.Outcome State Fault Refusal :=
  match s.rx.state with
  | .idle => .next s
  | .sync1 => .next (rxSync1Step d s)
  | .sync2 => .next (rxSync2Step d s)
  | .type => .next s
  | .probe => .next (rxProbeStep d s)
  | .len => .next (rxLenStep d s)
  | .payload => rxPayloadStep d s
  | .ck => .next (rxCkStep d s)
  | .done => .next s
  | .failed => .next s

end Sys2Proof.Machine
end

