-- ==== Sys2Proof/Machine/Framer.lean ====
section
/-!
DEFINITION. The framer: the host operations ENCODE (41_framer.md R76) and TXDONE (R85), and the framer's
own steps (R77 to R83). A step reads the registers as they were and writes them at its end (R9, C12).
-/
namespace Sys2Proof.Machine

/-- The registers ENCODE acceptance leaves (R76): REFUSED_LENGTH for a checked payload of 255 bytes, else
the Packet latched and the accumulator and the index cleared. -/
def TxRegs.accept (r : TxRegs) (wireType : Byte) (hasChecksum : Bool) (payload : List Byte) : TxRegs :=
  if hasChecksum = true ∧ Config.maxPayloadCk < payload.length then r.finish .refusedLength
  else
    { r with
      wireType := wireType
      hc := hasChecksum
      len := BitVec.ofNat 8 payload.length
      buf := r.buf.load payload
      idx := 0
      acc := 0
      state := .sync1 }

/-- ENCODE (R76). Enabled when tx_state = TX_IDLE; otherwise, and while rst is asserted (R124), the command
stays offered (R14). -/
def execEncode (wireType : Byte) (hasChecksum : Bool) (payload : List Byte) (s : State) :
    Host.Outcome State Fault Refusal :=
  if Config.maxPayload < payload.length then .refused .payloadBeyondRecord
  else if s.tx.state = .idle ∧ s.cfg.rst = false then
    .next
      { s with
        tx := s.tx.accept wireType hasChecksum payload
        ports := s.ports.take .txCmd }
  else .next s

/-- TXDONE (R85). Enabled when tx_state = TX_DONE; otherwise the host goes on waiting (R14). -/
def execTxdone (dst : Nat) (s : State) : Host.Outcome State Fault Refusal :=
  if s.tx.state = .done then
    .next
      { s with
        tx := s.tx.toIdle
        ports :=
          { s.ports.take .txDone with vars := writeVar dst (.txDone s.tx.status) s.ports.vars } }
  else .next s

/-- TX_SYNC1 (R77). -/
def txSync1Step (a : WriteAnswer) (s : State) : State :=
  s.sendByte a 0xAA { s.tx with state := .sync2 }

/-- TX_SYNC2 (R78). -/
def txSync2Step (a : WriteAnswer) (s : State) : State :=
  s.sendByte a 0x55 { s.tx with state := .type }

/-- TX_TYPE (R79): a frame without payload ends here, whatever tx_hc is. -/
def txTypeStep (a : WriteAnswer) (s : State) : State :=
  s.sendByte a s.tx.wireType
    (if s.tx.len = 0 then s.tx.finish .ok else { s.tx with state := .len })

/-- TX_LEN (R80). -/
def txLenStep (a : WriteAnswer) (s : State) : State :=
  s.sendByte a (lenByte s.tx.len s.tx.hc) { s.tx with state := .payload }

/-- What TX_PAYLOAD leaves in the registers once byte `b` is written (R81); the test is on the new index. -/
def TxRegs.afterPayloadByte (r : TxRegs) (b : Byte) : TxRegs :=
  let i := r.idx.toNat + 1
  let r' := { r with acc := r.acc - b, idx := BitVec.ofNat 9 i }
  if i < r.len.toNat then r'
  else if r.hc = true then { r' with state := .ck }
  else r'.finish .ok

/-- TX_PAYLOAD (R81). -/
def txPayloadStep (a : WriteAnswer) (s : State) : Host.Outcome State Fault Refusal :=
  match s.tx.buf.read s.tx.idx.toNat with
  | some b => .next (s.sendByte a b (s.tx.afterPayloadByte b))
  | none => .fault .txIndexBeyondBuffer

/-- TX_CK (R82). -/
def txCkStep (a : WriteAnswer) (s : State) : State :=
  s.sendByte a s.tx.acc (s.tx.finish .ok)

/-- The framer's turn: the step of its state (R61). In TX_IDLE and TX_DONE it has no step of its own (R84). -/
def txStep (a : WriteAnswer) (s : State) : Host.Outcome State Fault Refusal :=
  match s.tx.state with
  | .idle => .next s
  | .sync1 => .next (txSync1Step a s)
  | .sync2 => .next (txSync2Step a s)
  | .type => .next (txTypeStep a s)
  | .len => .next (txLenStep a s)
  | .payload => txPayloadStep a s
  | .ck => .next (txCkStep a s)
  | .done => .next s

end Sys2Proof.Machine
end

