-- ==== Sys2Proof/Machine/Catalog.lean ====
section
/-!
DEFINITION. The Packet Catalog (40_catalog.md R65 to R74): a pure, read-only table. `framingFor` is the
forward lookup, `kindFor` the reverse lookup, which alone depends on cfg_kind_3b.
-/
namespace Sys2Proof.Machine

/-- A row of the catalog: `(wire_type, payload_size, has_checksum)` (R65). -/
structure Framing where
  wireType : Byte
  size : Byte
  hc : Bool
deriving DecidableEq, Repr

/-- `framing_for(k)` (R65, R74). -/
def framingFor : Kind → Framing
  | .lcdUpdate => ⟨0x1E, 17, true⟩
  | .lcdUpdateResponse => ⟨0x16, 1, true⟩
  | .joyStatusRequest => ⟨0x3B, 0, true⟩
  | .joyStatusRequestResponse => ⟨0x39, 9, true⟩
  | .joyVersionRequest => ⟨0x3A, 0, false⟩
  | .joyVersionRequestResponse => ⟨0x3B, 2, false⟩

/-- `kind_for(t)` under a value of cfg_kind_3b (R73). -/
def kindFor (kind3b : Bool) (t : Byte) : Option Kind :=
  if t = 0x1E then some .lcdUpdate
  else if t = 0x16 then some .lcdUpdateResponse
  else if t = 0x39 then some .joyStatusRequestResponse
  else if t = 0x3A then some .joyVersionRequest
  else if t = 0x3B then
    match kind3b with
    | false => some .joyStatusRequest
    | true => some .joyVersionRequestResponse
  else none

end Sys2Proof.Machine
end

