-- ==== Sys2Proof/Machine/Frames.lean ====
section
/-!
DEFINITION. The frame rows of the opcode table (30_encoding.md R53, R63; 40_catalog.md R66 to R72): what the
deframer's RX_TYPE step does once the header is read (42_deframer.md R94). The header has been read when a
row runs (its TYPE byte is consumed by the fetch); LEN, payload and checksum are read by the deframer's
further steps, under the registers the row writes (R95 to R98; log 11).
-/
namespace Sys2Proof.Machine

/-- The dispatch on a known kind (R94): the catalog's row into the registers; a kind of size 0 is complete at
TYPE whatever its checksum flag is (C2), another goes to RX_LEN. -/
def RxRegs.dispatchKnown (r : RxRegs) (k : Kind) : RxRegs :=
  let f := framingFor k
  let r' := { r with wireType := f.wireType, kind := .known k, hc := f.hc, size := f.size }
  if f.size = 0 then r'.finish .ok else { r' with state := .len }

/-- The dispatch on an unknown type (R72, R94): the checksum flag defaults to 1, the probe follows. -/
def RxRegs.dispatchUnknown (r : RxRegs) (t : Byte) : RxRegs :=
  { r with wireType := t, kind := .unknown, hc := true, state := .probe }

/-- FRAME_LcdUpdate (R66): to RX_LEN, 17 payload bytes and a checksum expected. -/
def execFrameLcdUpdate (s : State) : Host.Outcome State Fault Refusal :=
  .next { s with rx := s.rx.dispatchKnown .lcdUpdate }

/-- FRAME_LcdUpdateResponse (R67): to RX_LEN, 1 payload byte and a checksum expected. -/
def execFrameLcdUpdateResponse (s : State) : Host.Outcome State Fault Refusal :=
  .next { s with rx := s.rx.dispatchKnown .lcdUpdateResponse }

/-- FRAME_JoyStatusRequestResponse (R69): to RX_LEN, 9 payload bytes and a checksum expected. -/
def execFrameJoyStatusRequestResponse (s : State) : Host.Outcome State Fault Refusal :=
  .next { s with rx := s.rx.dispatchKnown .joyStatusRequestResponse }

/-- FRAME_JoyVersionRequest (R70): complete at TYPE. -/
def execFrameJoyVersionRequest (s : State) : Host.Outcome State Fault Refusal :=
  .next { s with rx := s.rx.dispatchKnown .joyVersionRequest }

/-- FRAME_JoyStatusRequest (R68): complete at TYPE. The decoder gives it under cfg_kind_3b = 0. -/
def execFrameJoyStatusRequest (s : State) : Host.Outcome State Fault Refusal :=
  .next { s with rx := s.rx.dispatchKnown .joyStatusRequest }

/-- FRAME_JoyVersionRequestResponse (R71): to RX_LEN, 2 payload bytes and no checksum expected. The decoder
gives it under cfg_kind_3b = 1. -/
def execFrameJoyVersionRequestResponse (s : State) : Host.Outcome State Fault Refusal :=
  .next { s with rx := s.rx.dispatchKnown .joyVersionRequestResponse }

/-- FRAME_Unknown (R72): to RX_PROBE. -/
def execFrameUnknown (wireType : Byte) (s : State) : Host.Outcome State Fault Refusal :=
  .next { s with rx := s.rx.dispatchUnknown wireType }

end Sys2Proof.Machine
end

