-- ==== Sys2Proof/Machine/Dispatch.lean ====
section
/-!
DEFINITION. The meaning of every instruction: one arm per row of spec/opcode_table.json.
-/
namespace Sys2Proof.Machine

/-- One arm per constructor of Instr. -/
def exec (i : Instr) (s : State) : Host.Outcome State Fault Refusal :=
  match i with
  | .encode wireType hasChecksum payload => Sys2Proof.Machine.execEncode wireType hasChecksum payload s
  | .txdone dst => Sys2Proof.Machine.execTxdone dst s
  | .decode timeout => Sys2Proof.Machine.execDecode timeout s
  | .rxres dst => Sys2Proof.Machine.execRxres dst s
  | .frameLcdUpdate => Sys2Proof.Machine.execFrameLcdUpdate s
  | .frameLcdUpdateResponse => Sys2Proof.Machine.execFrameLcdUpdateResponse s
  | .frameJoyStatusRequestResponse => Sys2Proof.Machine.execFrameJoyStatusRequestResponse s
  | .frameJoyVersionRequest => Sys2Proof.Machine.execFrameJoyVersionRequest s
  | .frameJoyStatusRequest => Sys2Proof.Machine.execFrameJoyStatusRequest s
  | .frameJoyVersionRequestResponse => Sys2Proof.Machine.execFrameJoyVersionRequestResponse s
  | .frameUnknown wireType => Sys2Proof.Machine.execFrameUnknown wireType s

end Sys2Proof.Machine
end

