-- ==== Sys2Proof/Machine/Fetch.lean ====
section
/-!
DEFINITION. How a step finds what it does: it takes the next move off the tape (10_state.md R13; log 1). A
host handshake fetches the record on its port (R14, 30_encoding.md R63), the deframer in RX_TYPE fetches the
header whose third byte it reads (42_deframer.md R94): both are decoded and run. Every other move is done here.
-/
namespace Sys2Proof.Machine

/-- What the fetch answers: an instruction to run in the state the fetch leaves, or the move's own outcome. -/
inductive Fetched where
  | run (i : Instr) (s : State)
  | did (o : Host.Outcome State Fault Refusal)

/-- An encoded form decoded under cfg_kind_3b. -/
def fetchEncoded (e : Encoded) (s : State) : Fetched :=
  match decode s.cfg.kind3b e with
  | .instr i => .run i s
  | .rejected r => .did (.refused (.undecodable r))

/-- The handshake of a host port (R14): its oldest offer is fetched; with nothing offered nothing happens. -/
def fetchOffer (p : HostPort) (s : State) : Fetched :=
  match s.ports.head? p with
  | some o => fetchEncoded (.host o) s
  | none => .did (.next s)

/-- RX_TYPE's read (R94, R99): the byte completes the header, whose sync bytes RX_SYNC1 and RX_SYNC2 have
matched. -/
def fetchHeader (d : Draw) (s : State) : Fetched :=
  match s.link.readAnswer d with
  | .byte t => fetchEncoded (.header [0xAA, 0x55, t]) (s.afterRead d)
  | _ => .did (.next (s.receiveByte d fun _ => s.rx))

/-- The inputs cfg_kind_3b and cfg_peek_timeout are driven (R16): a change while the deframer is busy is
outside the spec and faults (R48, R127, I16). -/
def driveConfig (kind3b : Bool) (peekTimeout : Nat) (s : State) : Host.Outcome State Fault Refusal :=
  if s.rxBusy = true ∧ ¬(kind3b = s.cfg.kind3b ∧ peekTimeout = s.cfg.peekTimeout) then
    .fault .configChangedWhileBusy
  else .next { s with cfg := { s.cfg with kind3b := kind3b, peekTimeout := peekTimeout } }

/-- rst is driven (R124): the block resets while it is asserted and at the step it is released; driven
released again it does nothing (log 25). -/
def driveReset (level : Bool) (s : State) : State :=
  if level = true ∨ s.cfg.rst = true then { s with cfg := { s.cfg with rst := level } }.blockReset
  else s

/-- One move (R13). While rst is asserted neither engine steps (R124). -/
def fetchInput (i : Input) (s : State) : Fetched :=
  match i with
  | .offer o => .did (.next { s with ports := s.ports.place o })
  | .host p => fetchOffer p s
  | .framer a => if s.cfg.rst = true then .did (.next s) else .did (txStep a s)
  | .deframer d =>
    if s.cfg.rst = true then .did (.next s)
    else if s.rx.state = .type then fetchHeader d s
    else .did (rxStep d s)
  | .arrive bs => .did (.next { s with link := { s.link with line := s.link.line ++ bs } })
  | .rst level => .did (.next (driveReset level s))
  | .config kind3b peekTimeout => .did (driveConfig kind3b peekTimeout s)
  | .link isOpen => .did (.next { s with link := { s.link with isOpen := isOpen } })
  | .avail level => .did (.next { s with link := { s.link with avail := level } })

/-- The next move off the tape; with no move to come nothing happens (R33, R123; log 2). -/
def fetch (s : State) : Fetched :=
  match s.tape with
  | [] => .did (.next s)
  | i :: rest => fetchInput i { s with tape := rest }

/-- A frame header placed where the deframer fetches it: after the sync bytes, with TYPE next on an open
link, rst released, and the deframer's turn with a prompt answer next on the tape. Three bytes that are no
frame header are placed at the front of the stream with the deframer in RX_SYNC1. -/
def State.placeHeader (s : State) : List Byte → State
  | [b0, b1, b2] =>
    if b0 = 0xAA ∧ b1 = 0x55 then
      { s with
        rx := { s.rx with state := .type }
        link := { s.link with pushback := none, duty := false, line := b2 :: s.link.line, isOpen := true }
        cfg := { s.cfg with rst := false }
        tape := .deframer .prompt :: s.tape }
    else
      { s with
        rx := { s.rx with state := .sync1 }
        link := { s.link with pushback := none, duty := false, line := b0 :: b1 :: b2 :: s.link.line, isOpen := true }
        cfg := { s.cfg with rst := false }
        tape := .deframer .prompt :: s.tape }
  | _ => s

end Sys2Proof.Machine
end

