-- ==== Sys2Proof/Machine/Step.lean ====
section
/-!
DEFINITION. One step of the machine: one move of one agent (10_state.md R13, 20_memory.md R33).
-/
namespace Sys2Proof.Machine

/-- What is fetched is run. -/
def Fetched.outcome : Fetched → Host.Outcome State Fault Refusal
  | .run i s => exec i s
  | .did o => o

/-- The step. -/
def step (s : State) : Host.Outcome State Fault Refusal := (fetch s).outcome

/-- A table word stored where the next step fetches it (log 21). -/
def State.withFetchWord (s : State) (nbits w : Nat) : State := s.placeHeader (tableBytes nbits w)

end Sys2Proof.Machine
end

