-- ==== Sys2Proof/Machine/Links.lean ====
section
/-!
DEFINITION. Several instances of the block, one per link (60_exceptions.md R121, D24): each has its own state
and its own Transport. Their number N_LINKS is OPEN (log 23).
-/
namespace Sys2Proof.Machine

/-- A system of N_LINKS instances. -/
def linksOk (sys : List State) : Prop := sys.length = Config.nLinks

/-- A step of instance `k`; there is no inter-instance signal (R121). -/
def stepLink (k : Nat) (sys : List State) : Host.Outcome (List State) Fault Refusal :=
  match sys[k]? with
  | none => .next sys
  | some s =>
    match step s with
    | .next t => .next (sys.set k t)
    | .fault f => .fault f
    | .refused r => .refused r

end Sys2Proof.Machine
end

