-- ==== Sys2Proof/Machine/Pseudo.lean ====
section
/-!
DEFINITION. The pseudo-instructions of the host notation (30_encoding.md R64): SEND (41_framer.md R89), XMIT
(R90) and RECV (42_deframer.md R106), as the sequences they expand to. They have no opcode rows. Harness
control flow (labels, BEQ, BNE, JMP, HALT) "belongs to the test harness, not to the block" (R64).
-/
namespace Sys2Proof.Machine

/-- `SEND Kind, [p…]` (R89): refused at assembly when the number of bytes is not the kind's payload size. -/
def expandSend (k : Kind) (p : List Byte) : Option (List Instr) :=
  if p.length = (framingFor k).size.toNat then
    some [.encode (framingFor k).wireType (framingFor k).hc p]
  else none

/-- `XMIT wt, hc, [p…] -> s` (R90). -/
def expandXmit (wireType : Byte) (hasChecksum : Bool) (p : List Byte) (dst : Nat) : List Instr :=
  [.encode wireType hasChecksum p, .txdone dst]

/-- `RECV t -> r` (R106). -/
def expandRecv (timeout : Timeout) (dst : Nat) : List Instr := [.decode timeout, .rxres dst]

/-- The moves by which a host issues one operation: the offer on its port, and the handshake (R14). A frame
row is no host operation. -/
def issue (i : Instr) : List Input :=
  match encode i with
  | .host o => [.offer o, .host o.port]
  | .header _ => []

end Sys2Proof.Machine
end

