-- ==== Sys2Proof/Machine/Codec.lean ====
section
/-!
DEFINITION. The two pure functions of the protocol: `encode(P)`, the frame of a Packet (41_framer.md R75),
here `frameOf`, and `decode(s)`, the reference function of the deframer under the deterministic Transport
(42_deframer.md R102), here `decodeStream`. The engines do not call them; statements compare.
-/
namespace Sys2Proof.Machine

/-- `encode(P)` of R75: frame formats F0, F1 and F2 of R51. -/
def frameOf (p : Packet) : List Byte :=
  [0xAA, 0x55, p.wireType] ++
    (if p.payload = [] then []
     else [lenByte (BitVec.ofNat 8 p.payload.length) p.hasChecksum] ++ p.payload ++
       (if p.hasChecksum then [checksumOf p.payload] else []))

/-- The Packets the framer takes (R5, R75, R76, D9): every one but a checked payload of 255 bytes. -/
def Packet.sendable (p : Packet) : Bool :=
  decide (p.payload.length ≤ Config.maxPayload) &&
    !(p.hasChecksum && decide (Config.maxPayloadCk < p.payload.length))

/-- `decode(s)` from the bytes after LEN on (R102): `n` payload bytes, and a checksum byte if `hc`. -/
def decodeBody (kind : KindId) (t : Byte) (n : Nat) (hc : Bool) (body : List Byte) : RxRecord × Nat :=
  if body.length < n then (.failure .transportFailure .payload, 4 + body.length)
  else if hc = false then (.packet .ok kind t false (BitVec.ofNat 8 n) (body.take n), 4 + n)
  else
    match body[n]? with
    | none => (.failure .transportFailure .ck, 4 + n)
    | some c =>
      if sum8 (body.take n) + c = 0 then
        (.packet .ok kind t true (BitVec.ofNat 8 n) (body.take n), 5 + n)
      else (.failure .checksumMismatch .ck, 5 + n)

/-- `decode(s)` from the bytes after TYPE on (R102). -/
def decodeAfterType (kind3b : Bool) (t : Byte) (rest : List Byte) : RxRecord × Nat :=
  match kindFor kind3b t with
  | some k =>
    if (framingFor k).size = 0 then (.packet .ok (.known k) t (framingFor k).hc 0 [], 3)
    else
      match rest with
      | [] => (.failure .transportFailure .len, 3)
      | l :: body =>
        if l.toNat = expectedLen (framingFor k).size (framingFor k).hc then
          decodeBody (.known k) t (framingFor k).size.toNat (framingFor k).hc body
        else (.failure .lengthMismatch .len, 4)
  | none =>
    match rest with
    | [] => (.packet .okUnknownNoLen .unknown t true 0 [], 3)
    | l :: body =>
      if l = 0 then (.failure .lengthMismatch .len, 4)
      else decodeBody .unknown t (l.toNat - 1) true body

/-- `decode(s)` of R102: the result record and the number of bytes consumed. -/
def decodeStream (kind3b : Bool) : List Byte → RxRecord × Nat
  | [] => (.failure .transportFailure .sync1, 0)
  | b0 :: s1 =>
    if b0 = 0xAA then
      match s1 with
      | [] => (.failure .transportFailure .sync2, 1)
      | b1 :: s2 =>
        if b1 = 0x55 then
          match s2 with
          | [] => (.failure .transportFailure .type, 2)
          | t :: rest => decodeAfterType kind3b t rest
        else (.failure .resync .sync2, 2)
    else (.failure .resync .sync1, 1)

end Sys2Proof.Machine
end

