-- ==== Sys2Proof/WellFormed.lean ====
section
/-!
DEFINITION. Which terms of `Instr` are instructions of the spec: a payload that a tx_cmd record can hold
(10_state.md R24, 30_encoding.md R56), an unknown type that the catalog does not know (40_catalog.md R72); and
which frame rows a value of cfg_kind_3b admits (R53, R73). A timeout's TIMEOUT_W bits (R57) are its type's.
-/
namespace Sys2Proof

/-- The wire types of the catalog, under either value of cfg_kind_3b (R42, R72). -/
def catalogType (t : Byte) : Bool :=
  t == 0x16 || t == 0x1E || t == 0x39 || t == 0x3A || t == 0x3B

/-- The checks on an instruction's operands. -/
def Instr.wellFormed : Instr → Bool
  | .encode _ _ payload => decide (payload.length ≤ Config.maxPayload)
  | .txdone _ => true
  | .decode _ => true
  | .rxres _ => true
  | .frameLcdUpdate => true
  | .frameLcdUpdateResponse => true
  | .frameJoyStatusRequestResponse => true
  | .frameJoyVersionRequest => true
  | .frameJoyStatusRequest => true
  | .frameJoyVersionRequestResponse => true
  | .frameUnknown wireType => !catalogType wireType

/-- The "condition" of a row of the opcode table: the two rows of wire type 0x3B each apply under one value
of cfg_kind_3b (R53, R68, R71); every other row applies under both. -/
def Instr.appliesUnder (kind3b : Bool) : Instr → Bool
  | .encode _ _ _ => true
  | .txdone _ => true
  | .decode _ => true
  | .rxres _ => true
  | .frameLcdUpdate => true
  | .frameLcdUpdateResponse => true
  | .frameJoyStatusRequestResponse => true
  | .frameJoyVersionRequest => true
  | .frameJoyStatusRequest => !kind3b
  | .frameJoyVersionRequestResponse => kind3b
  | .frameUnknown _ => true

end Sys2Proof
end

