-- ==== Sys2Proof/Safety.lean ====
section
/-!
DEFINITION. What holds of the machine between steps, in the terms of the spec: which register values go with
each framer state (10_state.md R22, 41_framer.md R76 to R84), with each deframer state (42_deframer.md R91 to
R101, 60_exceptions.md R107 to R114), what a record the host holds looks like (30_encoding.md R60), and that
a block under reset is idle (R124).
-/
namespace Sys2Proof.Machine

/-- The framer does not send a checked payload of 255 bytes (R76, R80). -/
def TxRegs.lenFits (r : TxRegs) : Prop := ¬(r.hc = true ∧ r.len = 255)

/-- The framer's registers in each of its states. -/
def TxRegs.Inv (r : TxRegs) : Prop :=
  match r.state with
  | .idle => True
  | .sync1 => r.lenFits ∧ r.idx = 0 ∧ r.acc = 0
  | .sync2 => r.lenFits ∧ r.idx = 0 ∧ r.acc = 0
  | .type => r.lenFits ∧ r.idx = 0 ∧ r.acc = 0
  | .len => r.lenFits ∧ r.idx = 0 ∧ r.acc = 0 ∧ r.len ≠ 0
  | .payload =>
    r.lenFits ∧ r.idx.toNat < r.len.toNat ∧ r.acc = checksumOf (Buf.take r.buf r.idx.toNat)
  | .ck =>
    r.lenFits ∧ r.hc = true ∧ r.len ≠ 0 ∧ r.idx.toNat = r.len.toNat ∧
      r.acc = checksumOf (Buf.take r.buf r.len.toNat)
  | .done => r.status = .ok ∨ r.status = .transportFailure ∨ r.status = .refusedLength

/-- rx_type, rx_kind and rx_hc are what RX_TYPE wrote for one TYPE byte, under one value of cfg_kind_3b; the
size of a known kind is the catalog's (R94), that of an unknown type at most 254 (R105). -/
def RxRegs.typed (kind3b : Bool) (r : RxRegs) : Prop :=
  match r.kind with
  | .known k =>
    kindFor kind3b r.wireType = some k ∧ r.hc = (framingFor k).hc ∧ r.size = (framingFor k).size
  | .unknown => kindFor kind3b r.wireType = none ∧ r.hc = true

/-- A failure's status goes with the phases its rule names (R107). -/
def failureAt : Status → RxState → Prop
  | .resync, p => p = .sync1 ∨ p = .sync2
  | .lengthMismatch, p => p = .len
  | .checksumMismatch, p => p = .ck
  | .transportFailure, p => p ≠ .idle ∧ p ≠ .done ∧ p ≠ .failed
  | .ok, _ => False
  | .okUnknownNoLen, _ => False
  | .refusedLength, _ => False

/-- The deframer's registers in each of its states. -/
def RxRegs.Inv (kind3b : Bool) (r : RxRegs) : Prop :=
  match r.state with
  | .idle => True
  | .sync1 => r.idx = 0 ∧ r.acc = 0
  | .sync2 => r.idx = 0 ∧ r.acc = 0
  | .type => r.idx = 0 ∧ r.acc = 0
  | .probe => r.idx = 0 ∧ r.acc = 0 ∧ r.typed kind3b ∧ r.kind = .unknown
  | .len => r.idx = 0 ∧ r.acc = 0 ∧ r.typed kind3b ∧ (r.kind ≠ .unknown → r.size ≠ 0)
  | .payload =>
    r.typed kind3b ∧ r.size.toNat ≤ 254 ∧ r.idx.toNat < r.size.toNat ∧
      r.acc = sum8 (Buf.take r.buf r.idx.toNat)
  | .ck =>
    r.typed kind3b ∧ r.size.toNat ≤ 254 ∧ r.hc = true ∧ r.idx.toNat = r.size.toNat ∧
      r.acc = sum8 (Buf.take r.buf r.size.toNat)
  | .done =>
    r.typed kind3b ∧ r.size.toNat ≤ 254 ∧ r.idx.toNat = r.size.toNat ∧
      (r.status = .ok ∨ (r.status = .okUnknownNoLen ∧ r.kind = .unknown ∧ r.size = 0)) ∧
      (r.hc = true → r.acc = 0)
  | .failed => failureAt r.status r.phase

/-- A record a host variable holds (R58, R60). -/
def recordOk : HostRecord → Prop
  | .txDone st => st = .ok ∨ st = .transportFailure ∨ st = .refusedLength
  | .rxRes (.packet st _ _ _ len payload) =>
    st.isSuccess = true ∧ payload.length = len.toNat ∧ len.toNat ≤ 254
  | .rxRes (.failure st phase) => failureAt st phase

/-- The invariant of the machine: both engines' registers, the host's records, idle engines under reset (R124),
and a pushback duty only with a byte in the slot (R32). -/
def State.Inv (s : State) : Prop :=
  s.tx.Inv ∧ s.rx.Inv s.cfg.kind3b ∧ varsOk s.ports.vars ∧ (∀ e ∈ s.ports.vars, recordOk e.2) ∧
    (s.cfg.rst = true → s.tx.state = .idle ∧ s.rx.state = .idle) ∧
    (s.link.duty = true → s.link.pushback ≠ none)

/-- The framer's turns, all answered Ok. -/
def okTurns (n : Nat) : List Input := List.replicate n (.framer .ok)

/-- The deframer's turns under the deterministic Transport of R35. -/
def promptTurns (n : Nat) : List Input := List.replicate n (.deframer .prompt)

/-- The state after a move that wrote byte `b` with answer Ok and left the framer's registers `r`; `rest` is
the tape still to come (R31, R33). -/
def State.wrote (s : State) (rest : List Input) (b : Byte) (r : TxRegs) : State :=
  { s with
    tape := rest
    tx := r
    link := { s.link with sink := s.link.sink ++ [b], txLog := s.link.txLog ++ [⟨b, .ok⟩] } }

/-- The state after a move whose Write of `b` was answered Error (R31, R83). -/
def State.writeFailed (s : State) (rest : List Input) (b : Byte) : State :=
  { s with
    tape := rest
    tx := { s.tx with status := .transportFailure, state := .done }
    link := { s.link with txLog := s.link.txLog ++ [⟨b, .error⟩] } }

/-- The state after a move that read byte `b`, the stream's first, and left the deframer's registers `r`
(R29, R33, R36). -/
def State.tookByte (s : State) (rest : List Input) (b : Byte) (r : RxRegs) : State :=
  { s with
    tape := rest
    rx := r
    link :=
      { s.link with
        pushback := none
        duty := false
        line := s.link.unread.tail
        rxLog := s.link.rxLog ++ [.read s.rx.tmo (.byte b)] } }

/-- The state after a move whose Read was answered Timeout or Error (R29, R99). -/
def State.readFailed (s : State) (rest : List Input) (a : ReadAnswer) : State :=
  { s with
    tape := rest
    rx := { s.rx with status := .transportFailure, phase := s.rx.state, state := .failed }
    link := { s.link with duty := false, rxLog := s.link.rxLog ++ [.read s.rx.tmo a] } }

/-- A read state, in the sense of R99: RX_SYNC1, RX_SYNC2, RX_TYPE, RX_LEN, RX_PAYLOAD or RX_CK. -/
def RxState.reads : RxState → Bool
  | .idle => false
  | .sync1 => true
  | .sync2 => true
  | .type => true
  | .probe => false
  | .len => true
  | .payload => true
  | .ck => true
  | .done => false
  | .failed => false

/-- A transaction on rx_read (R29), as against one on rx_peek. -/
def RxTransaction.isRead : RxTransaction → Bool
  | .read _ _ => true
  | .peek _ _ => false

/-- The same state with rx_avail at another level. -/
def State.withAvail (s : State) (b : Bool) : State := { s with link := { s.link with avail := b } }

/-- The same state with other timeout values in rx_tmo and cfg_peek_timeout, and another history of the
requests that carried them. -/
def State.withTimeouts (s : State) (readTimeout : Timeout) (peekTimeout : Nat) (log : List RxTransaction) : State :=
  { s with
    rx := { s.rx with tmo := readTimeout }
    cfg := { s.cfg with peekTimeout := peekTimeout }
    link := { s.link with rxLog := log } }

/-- A frame is being sent or received, or its result waits (R23). -/
def RxState.inFrame : RxState → Bool
  | .idle => false
  | .sync1 => true
  | .sync2 => true
  | .type => true
  | .probe => true
  | .len => true
  | .payload => true
  | .ck => true
  | .done => false
  | .failed => false

/-- The framer is in a state that writes a byte (R61). -/
def TxState.sends : TxState → Bool
  | .idle => false
  | .sync1 => true
  | .sync2 => true
  | .type => true
  | .len => true
  | .payload => true
  | .ck => true
  | .done => false

end Sys2Proof.Machine
end

