-- ==== Sys2Proof/Certificates/Slice0/Obligations.lean ====
section
/-!
DEFINITION. The statements for the provers. Each docstring names the rules of spec/ it formalises.
-/
open Sys2Proof Sys2Proof.Machine

/-! ### Reset, flags, codes and the catalog -/

/-- R28, R124: right after reset both engines are idle, the four flags are 0 (R23), cfg_kind_3b is this
hardware's 0. -/
def Obligations.ResetLeavesBothEnginesIdle : Prop :=
  State.reset.tx.state = .idle ∧ State.reset.rx.state = .idle ∧
    State.reset.txBusy = false ∧ State.reset.txDoneValid = false ∧
    State.reset.rxBusy = false ∧ State.reset.rxResValid = false ∧
    State.reset.cfg.kind3b = false

/-- R23: the four flags follow the state registers; a command is accepted only while its engine is not busy,
a result is handed over only while its flag is set; after reset all four are 0. -/
def Obligations.StatusFlagsGateThePorts : Prop :=
  (∀ s : State,
    (s.txBusy = true ↔ s.tx.state ≠ .idle) ∧
    (s.txDoneValid = true ↔ s.tx.state = .done) ∧
    (s.rxBusy = true ↔ s.rx.state ≠ .idle) ∧
    (s.rxResValid = true ↔ (s.rx.state = .done ∨ s.rx.state = .failed)) ∧
    (s.txBusy = true → ∀ wt hc p, p.length ≤ 255 → exec (.encode wt hc p) s = .next s) ∧
    (s.txDoneValid = false → ∀ v, exec (.txdone v) s = .next s) ∧
    (s.rxBusy = true → ∀ n, exec (.decode n) s = .next s) ∧
    (s.rxResValid = false → ∀ v, exec (.rxres v) s = .next s)) ∧
  State.reset.txBusy = false ∧ State.reset.txDoneValid = false ∧
  State.reset.rxBusy = false ∧ State.reset.rxResValid = false

/-- R58, R59, R61, R62 and R54: the numeric codes, and the reserved ones that nothing produces. -/
def Obligations.CodesAreTheTables : Prop :=
  (Status.ok.code = 0 ∧ Status.okUnknownNoLen.code = 1 ∧ Status.resync.code = 2 ∧
    Status.lengthMismatch.code = 3 ∧ Status.checksumMismatch.code = 4 ∧
    Status.transportFailure.code = 5 ∧ Status.refusedLength.code = 6) ∧
  (∀ st : Status, st.code ≠ 7) ∧
  ((KindId.known .lcdUpdate).code = 0 ∧ (KindId.known .lcdUpdateResponse).code = 1 ∧
    (KindId.known .joyStatusRequest).code = 2 ∧ (KindId.known .joyStatusRequestResponse).code = 3 ∧
    (KindId.known .joyVersionRequest).code = 4 ∧
    (KindId.known .joyVersionRequestResponse).code = 5 ∧ KindId.unknown.code = 7) ∧
  (∀ k : KindId, k.code ≠ 6) ∧
  (TxState.idle.code = 0 ∧ TxState.sync1.code = 1 ∧ TxState.sync2.code = 2 ∧ TxState.type.code = 3 ∧
    TxState.len.code = 4 ∧ TxState.payload.code = 5 ∧ TxState.ck.code = 6 ∧ TxState.done.code = 7) ∧
  (RxState.idle.code = 0 ∧ RxState.sync1.code = 1 ∧ RxState.sync2.code = 2 ∧ RxState.type.code = 3 ∧
    RxState.probe.code = 4 ∧ RxState.len.code = 5 ∧ RxState.payload.code = 6 ∧ RxState.ck.code = 7 ∧
    RxState.done.code = 8 ∧ RxState.failed.code = 9) ∧
  (∀ r : RxState, r.code.toNat < 10)

/-- R73: the reverse lookup, for every byte and both values of cfg_kind_3b. -/
def Obligations.KindForIsTheReverseLookup : Prop :=
  ∀ c : Bool,
    kindFor c 0x1E = some .lcdUpdate ∧ kindFor c 0x16 = some .lcdUpdateResponse ∧
    kindFor c 0x39 = some .joyStatusRequestResponse ∧ kindFor c 0x3A = some .joyVersionRequest ∧
    kindFor c 0x3B = (if c = false then some .joyStatusRequest else some .joyVersionRequestResponse) ∧
    ∀ t : Byte, t ≠ 0x1E → t ≠ 0x16 → t ≠ 0x39 → t ≠ 0x3A → t ≠ 0x3B → kindFor c t = none

/-- R65, R74: the forward lookup gives the catalog's rows; it takes no configuration. -/
def Obligations.FramingForGivesTheCatalogRows : Prop :=
  framingFor .lcdUpdate = ⟨0x1E, 17, true⟩ ∧ framingFor .lcdUpdateResponse = ⟨0x16, 1, true⟩ ∧
  framingFor .joyStatusRequest = ⟨0x3B, 0, true⟩ ∧
  framingFor .joyStatusRequestResponse = ⟨0x39, 9, true⟩ ∧
  framingFor .joyVersionRequest = ⟨0x3A, 0, false⟩ ∧
  framingFor .joyVersionRequestResponse = ⟨0x3B, 2, false⟩

/-! ### Encoding -/

/-- R50, R53, R56, R57, R63: decoding the encoding of a well-formed instruction gives it back, under every
value of cfg_kind_3b that its row admits. -/
def Obligations.DecodeOfEncodeIsTheInstruction : Prop :=
  ∀ (c : Bool) (i : Instr), i.wellFormed = true → i.appliesUnder c = true →
    decode c (encode i) = .instr i

/-- R53, R56, R57, R63: what the decoder reads is what was encoded (of a header, its three bytes), it applies
under the configuration it was read in, and its operands are well-formed. -/
def Obligations.EncodeOfDecodedIsWhatWasRead : Prop :=
  ∀ (c : Bool) (e : Encoded) (i : Instr), decode c e = .instr i →
    encode i = (match e with
      | .host o => .host o
      | .header bytes => .header (bytes.take 3)) ∧
    i.appliesUnder c = true ∧ i.wellFormed = true

/-- R54, R63: a header is rejected exactly when its sync bytes are wrong, by the first wrong one. -/
def Obligations.HeadersAreRejectedByTheirSyncBytes : Prop :=
  ∀ (c : Bool) (b0 b1 t : Byte) (rest : List Byte),
    (b0 ≠ 0xAA → decode c (.header (b0 :: b1 :: t :: rest)) = .rejected (.notSync1 b0)) ∧
    (b0 = 0xAA → b1 ≠ 0x55 →
      decode c (.header (b0 :: b1 :: t :: rest)) = .rejected (.notSync2 b1)) ∧
    (b0 = 0xAA → b1 = 0x55 → ∃ i, decode c (.header (b0 :: b1 :: t :: rest)) = .instr i)

/-- R53: header words written out bit by bit decode to the rows they stand for, 0x3B under each value of
cfg_kind_3b. -/
def Obligations.WrittenOutHeadersDecode : Prop :=
  decode false (.header [0b10101010, 0b01010101, 0b00011110]) = .instr .frameLcdUpdate ∧
  decode false (.header [0b10101010, 0b01010101, 0b00010110]) = .instr .frameLcdUpdateResponse ∧
  decode false (.header [0b10101010, 0b01010101, 0b00111011]) = .instr .frameJoyStatusRequest ∧
  decode true (.header [0b10101010, 0b01010101, 0b00111011]) =
    .instr .frameJoyVersionRequestResponse ∧
  decode false (.header [0b10101010, 0b01010101, 0b01000010]) = .instr (.frameUnknown 0x42)

/-! ### A step runs the decoded instruction -/

/-- R63, R94: in RX_TYPE, when the read byte completes a header that decodes to `i`, the step is `i` in the
state after the read. -/
def Obligations.StepRunsTheHeaderInstruction : Prop :=
  ∀ (s : State) (d : Draw) (rest : List Input) (t : Byte) (i : Instr),
    s.tape = .deframer d :: rest → s.cfg.rst = false → s.rx.state = .type →
    s.link.readAnswer d = .byte t → decode s.cfg.kind3b (.header [0xAA, 0x55, t]) = .instr i →
    step s = exec i (State.afterRead { s with tape := rest } d)

/-- R14, R63: the handshake of a port whose oldest offer decodes to `i` is `i` in the state whose tape has
the move no more. -/
def Obligations.StepRunsTheOfferedInstruction : Prop :=
  ∀ (s : State) (p : HostPort) (rest : List Input) (o : Offer) (i : Instr),
    s.tape = .host p :: rest → s.ports.head? p = some o →
    decode s.cfg.kind3b (.host o) = .instr i →
    step s = exec i { s with tape := rest }

/-! ### The host operations -/

/-- R76: ENCODE in TX_IDLE latches the Packet and enters TX_SYNC1, or refuses a checked payload of 255 bytes
with REFUSED_LENGTH and writes nothing; while the framer is busy the command stays offered. -/
def Obligations.EncodeAcceptsRefusesOrWaits : Prop :=
  ∀ (s : State) (wt : Byte) (hc : Bool) (p : List Byte), p.length ≤ 255 →
    (s.tx.state = .idle → s.cfg.rst = false → ¬(hc = true ∧ p.length = 255) →
      ∃ t, exec (.encode wt hc p) s = .next t ∧
        t.tx.state = .sync1 ∧ t.tx.wireType = wt ∧ t.tx.hc = hc ∧ t.tx.len.toNat = p.length ∧
        (∀ j, j < p.length → Buf.read t.tx.buf j = p[j]?) ∧
        (∀ j, p.length ≤ j → Buf.read t.tx.buf j = Buf.read s.tx.buf j) ∧
        t.tx.idx = 0 ∧ t.tx.acc = 0 ∧ t.tx.status = s.tx.status ∧
        t.txBusy = true ∧ t.txDoneValid = false ∧
        t.ports = { s.ports with txCmd := s.ports.txCmd.tail } ∧
        t.rx = s.rx ∧ t.link = s.link ∧ t.cfg = s.cfg ∧ t.tape = s.tape ∧ t.resets = s.resets) ∧
    (s.tx.state = .idle → s.cfg.rst = false → hc = true → p.length = 255 →
      ∃ t, exec (.encode wt hc p) s = .next t ∧
        t.tx = { s.tx with status := .refusedLength, state := .done } ∧
        t.txBusy = true ∧ t.txDoneValid = true ∧
        t.ports = { s.ports with txCmd := s.ports.txCmd.tail } ∧
        t.rx = s.rx ∧ t.link = s.link ∧ t.cfg = s.cfg ∧ t.tape = s.tape ∧ t.resets = s.resets) ∧
    (s.tx.state ≠ .idle → exec (.encode wt hc p) s = .next s)

/-- R85: TXDONE in TX_DONE hands tx_status to the host variable, leaves every other variable, and returns the
framer to TX_IDLE with its other registers as they were; before TX_DONE the host goes on waiting. -/
def Obligations.TxdoneHandsOverTheStatus : Prop :=
  ∀ (s : State) (v : Nat),
    (s.tx.state = .done →
      ∃ t, exec (.txdone v) s = .next t ∧
        t.tx = { s.tx with state := .idle } ∧
        readVar t.ports.vars v = some (.txDone s.tx.status) ∧
        (∀ w, w ≠ v → readVar t.ports.vars w = readVar s.ports.vars w) ∧
        t.txBusy = false ∧ t.txDoneValid = false ∧
        t.ports.txDone = s.ports.txDone.tail ∧ t.ports.txCmd = s.ports.txCmd ∧
        t.ports.rxCmd = s.ports.rxCmd ∧ t.ports.rxRes = s.ports.rxRes ∧
        t.rx = s.rx ∧ t.link = s.link ∧ t.cfg = s.cfg ∧ t.tape = s.tape ∧ t.resets = s.resets) ∧
    (s.tx.state ≠ .done → exec (.txdone v) s = .next s)

/-- R91: DECODE in RX_IDLE latches the timeout, clears the accumulator and the index, and enters RX_SYNC1;
nothing else changes but the offer. While the deframer is busy the command stays offered. -/
def Obligations.DecodeStartsAFrame : Prop :=
  ∀ (s : State) (n : Timeout),
    (s.rx.state = .idle → s.cfg.rst = false →
      exec (.decode n) s =
        .next
          { s with
            rx := { s.rx with tmo := n, acc := 0, idx := 0, state := .sync1 }
            ports := { s.ports with rxCmd := s.ports.rxCmd.tail } }) ∧
    (s.rx.state ≠ .idle → exec (.decode n) s = .next s)

/-- R101: RXRES hands over the Packet in RX_DONE, status and phase only in RX_FAILED, leaves every other
variable, and returns the deframer to RX_IDLE with its other registers as they were; before a result the host
goes on waiting. -/
def Obligations.RxresHandsOverTheRecord : Prop :=
  ∀ (s : State) (v : Nat),
    (s.rx.state = .done ∨ s.rx.state = .failed →
      ∃ t, exec (.rxres v) s = .next t ∧
        t.rx = { s.rx with state := .idle } ∧
        (s.rx.state = .done →
          readVar t.ports.vars v =
            some (.rxRes (.packet s.rx.status s.rx.kind s.rx.wireType s.rx.hc s.rx.size
              (s.rx.buf.toList.take s.rx.size.toNat)))) ∧
        (s.rx.state = .failed →
          readVar t.ports.vars v = some (.rxRes (.failure s.rx.status s.rx.phase))) ∧
        (∀ w, w ≠ v → readVar t.ports.vars w = readVar s.ports.vars w) ∧
        t.rxBusy = false ∧ t.rxResValid = false ∧
        t.ports.rxRes = s.ports.rxRes.tail ∧ t.ports.txCmd = s.ports.txCmd ∧
        t.ports.txDone = s.ports.txDone ∧ t.ports.rxCmd = s.ports.rxCmd ∧
        t.tx = s.tx ∧ t.link = s.link ∧ t.cfg = s.cfg ∧ t.tape = s.tape ∧ t.resets = s.resets) ∧
    (s.rx.state ≠ .done → s.rx.state ≠ .failed → exec (.rxres v) s = .next s)

/-! ### The frame rows -/

/-- R66 to R71, R94: each catalog row completes in every state, and changes the deframer's registers only:
type, kind, checksum flag and size are the catalog's; a kind of size 0 is complete (OK), any other expects
LEN next. -/
def Obligations.CatalogRowsDispatch : Prop :=
  ∀ s : State,
    exec .frameLcdUpdate s =
      .next { s with rx := { s.rx with
        wireType := 0x1E, kind := .known .lcdUpdate, hc := true, size := 17, state := .len } } ∧
    exec .frameLcdUpdateResponse s =
      .next { s with rx := { s.rx with
        wireType := 0x16, kind := .known .lcdUpdateResponse, hc := true, size := 1, state := .len } } ∧
    exec .frameJoyStatusRequestResponse s =
      .next { s with rx := { s.rx with
        wireType := 0x39, kind := .known .joyStatusRequestResponse, hc := true, size := 9,
        state := .len } } ∧
    exec .frameJoyVersionRequest s =
      .next { s with rx := { s.rx with
        wireType := 0x3A, kind := .known .joyVersionRequest, hc := false, size := 0, status := .ok,
        state := .done } } ∧
    exec .frameJoyStatusRequest s =
      .next { s with rx := { s.rx with
        wireType := 0x3B, kind := .known .joyStatusRequest, hc := true, size := 0, status := .ok,
        state := .done } } ∧
    exec .frameJoyVersionRequestResponse s =
      .next { s with rx := { s.rx with
        wireType := 0x3B, kind := .known .joyVersionRequestResponse, hc := false, size := 2,
        state := .len } }

/-- R72, R94: the unknown-type row completes in every state: kind UNKNOWN, checksum flag 1, the probe next;
rx_size and every other register stay as they are. -/
def Obligations.UnknownRowDispatches : Prop :=
  ∀ (s : State) (t : Byte),
    exec (.frameUnknown t) s =
      .next { s with rx := { s.rx with
        wireType := t, kind := .unknown, hc := true, state := .probe } }

/-- R94: the RX_TYPE step reads one byte and dispatches by the catalog's two lookups; a failed read raises
TRANSPORT_FAILURE in RX_TYPE. -/
def Obligations.TypeStepDispatchesByTheCatalog : Prop :=
  ∀ (s : State) (d : Draw) (rest : List Input),
    s.tape = .deframer d :: rest → s.cfg.rst = false → s.rx.state = .type →
    step s = .next
      (match s.link.readAnswer d with
        | .byte t =>
          s.tookByte rest t
            (match kindFor s.cfg.kind3b t with
              | some k =>
                if (framingFor k).size = 0 then
                  { s.rx with
                    wireType := t, kind := .known k, hc := (framingFor k).hc,
                    size := (framingFor k).size, status := .ok, state := .done }
                else
                  { s.rx with
                    wireType := t, kind := .known k, hc := (framingFor k).hc,
                    size := (framingFor k).size, state := .len }
              | none => { s.rx with wireType := t, kind := .unknown, hc := true, state := .probe })
        | a => s.readFailed rest a)

/-! ### The engines' own steps -/

/-- R77 to R83: the framer's turn writes the byte of its state and, on Ok, moves on as the state's rule says;
on Error it finishes TRANSPORT_FAILURE in the same step and the sink gains nothing. LEN does not wrap for a
Packet the framer accepts. -/
def Obligations.FramerStepsFollowTheirRules : Prop :=
  ∀ (s : State) (rest : List Input), s.cfg.rst = false → s.link.isOpen = true →
    (s.tape = .framer .ok :: rest →
      (s.tx.state = .sync1 → step s = .next (s.wrote rest 0xAA { s.tx with state := .sync2 })) ∧
      (s.tx.state = .sync2 → step s = .next (s.wrote rest 0x55 { s.tx with state := .type })) ∧
      (s.tx.state = .type →
        step s = .next (s.wrote rest s.tx.wireType
          (if s.tx.len = 0 then { s.tx with status := .ok, state := .done }
           else { s.tx with state := .len }))) ∧
      (s.tx.state = .len →
        step s = .next (s.wrote rest (s.tx.len + (if s.tx.hc then 1 else 0))
          { s.tx with state := .payload })) ∧
      (s.tx.state = .payload → ∀ b, Buf.read s.tx.buf s.tx.idx.toNat = some b →
        step s = .next (s.wrote rest b
          (if s.tx.idx.toNat + 1 < s.tx.len.toNat then
            { s.tx with acc := s.tx.acc - b, idx := s.tx.idx + 1 }
           else if s.tx.hc = true then
            { s.tx with acc := s.tx.acc - b, idx := s.tx.idx + 1, state := .ck }
           else
            { s.tx with
              acc := s.tx.acc - b, idx := s.tx.idx + 1, status := .ok, state := .done }))) ∧
      (s.tx.state = .ck →
        step s = .next (s.wrote rest s.tx.acc { s.tx with status := .ok, state := .done }))) ∧
    (s.tape = .framer .error :: rest →
      (s.tx.state = .sync1 → step s = .next (s.writeFailed rest 0xAA)) ∧
      (s.tx.state = .sync2 → step s = .next (s.writeFailed rest 0x55)) ∧
      (s.tx.state = .type → step s = .next (s.writeFailed rest s.tx.wireType)) ∧
      (s.tx.state = .len →
        step s = .next (s.writeFailed rest (s.tx.len + (if s.tx.hc then 1 else 0)))) ∧
      (s.tx.state = .payload → ∀ b, Buf.read s.tx.buf s.tx.idx.toNat = some b →
        step s = .next (s.writeFailed rest b)) ∧
      (s.tx.state = .ck → step s = .next (s.writeFailed rest s.tx.acc))) ∧
    (s.tx.idx.toNat < s.tx.len.toNat → ∃ b, Buf.read s.tx.buf s.tx.idx.toNat = some b) ∧
    (¬(s.tx.hc = true ∧ s.tx.len = 255) →
      (s.tx.len + (if s.tx.hc then 1 else 0)).toNat = s.tx.len.toNat + (if s.tx.hc then 1 else 0))

/-- R92, R93: a sync step consumes the byte it reads, right or wrong; a wrong one raises RESYNC with the
step's state as phase, a failed read TRANSPORT_FAILURE. -/
def Obligations.SyncStepsCheckTheirByte : Prop :=
  ∀ (s : State) (d : Draw) (rest : List Input), s.tape = .deframer d :: rest → s.cfg.rst = false →
    (∀ b, s.link.readAnswer d = .byte b →
      (s.rx.state = .sync1 →
        step s = .next (s.tookByte rest b
          (if b = 0xAA then { s.rx with state := .sync2 }
           else { s.rx with status := .resync, phase := .sync1, state := .failed }))) ∧
      (s.rx.state = .sync2 →
        step s = .next (s.tookByte rest b
          (if b = 0x55 then { s.rx with state := .type }
           else { s.rx with status := .resync, phase := .sync2, state := .failed })))) ∧
    ((∀ b, s.link.readAnswer d ≠ .byte b) → s.rx.state = .sync1 ∨ s.rx.state = .sync2 →
      step s = .next (s.readFailed rest (s.link.readAnswer d)))

/-- R95, R112, R128: the probe's answer alone decides: None ends the frame OK_UNKNOWN_NO_LEN with no payload,
Some goes to RX_LEN, Error raises TRANSPORT_FAILURE in RX_PROBE; the receive stream is as it was. -/
def Obligations.ProbeDecidesByTheAnswer : Prop :=
  ∀ (s : State) (d : Draw) (rest : List Input),
    s.tape = .deframer d :: rest → s.cfg.rst = false → s.rx.state = .probe →
    ∃ t, step s = .next t ∧ t.link.unread = s.link.unread ∧
      t.tx = s.tx ∧ t.cfg = s.cfg ∧ t.ports = s.ports ∧ t.tape = rest ∧ t.resets = s.resets ∧
      t.link.sink = s.link.sink ∧ t.link.txLog = s.link.txLog ∧
      t.link.isOpen = s.link.isOpen ∧ t.link.avail = s.link.avail ∧
      t.link.rxLog = s.link.rxLog ++ [.peek s.cfg.peekTimeout (s.link.peekAnswer d)] ∧
      (s.link.peekAnswer d = .nothing →
        t.rx = { s.rx with size := 0, status := .okUnknownNoLen, state := .done }) ∧
      (∀ b, s.link.peekAnswer d = .ready b →
        t.rx = { s.rx with state := .len } ∧ t.link.pushback = some b ∧ t.link.duty = true) ∧
      ((∀ b, s.link.peekAnswer d ≠ .ready b) →
        t.link.pushback = s.link.pushback ∧ t.link.duty = s.link.duty) ∧
      (s.link.peekAnswer d = .error →
        t.rx = { s.rx with status := .transportFailure, phase := .probe, state := .failed })

/-- R96: the LEN check of a known kind and of an unknown type; a failed read raises TRANSPORT_FAILURE. -/
def Obligations.LenStepChecksTheLength : Prop :=
  ∀ (s : State) (d : Draw) (rest : List Input),
    s.tape = .deframer d :: rest → s.cfg.rst = false → s.rx.state = .len →
    (∀ l, s.link.readAnswer d = .byte l →
      (s.rx.kind ≠ .unknown →
        step s = .next (s.tookByte rest l
          (if l.toNat = s.rx.size.toNat + (if s.rx.hc then 1 else 0) then
            { s.rx with state := .payload }
           else { s.rx with status := .lengthMismatch, phase := .len, state := .failed }))) ∧
      (s.rx.kind = .unknown →
        step s = .next (s.tookByte rest l
          (if l = 0 then { s.rx with status := .lengthMismatch, phase := .len, state := .failed }
           else if l = 1 then { s.rx with size := 0, state := .ck }
           else { s.rx with size := l - 1, state := .payload })))) ∧
    ((∀ b, s.link.readAnswer d ≠ .byte b) →
      step s = .next (s.readFailed rest (s.link.readAnswer d)))

/-- R97: the payload step stores the byte at rx_idx, leaves every other element, folds it into rx_acc, and
goes on by the new index; a failed read raises TRANSPORT_FAILURE. -/
def Obligations.PayloadStepStoresTheByte : Prop :=
  ∀ (s : State) (d : Draw) (rest : List Input),
    s.tape = .deframer d :: rest → s.cfg.rst = false → s.rx.state = .payload →
    s.rx.idx.toNat < s.rx.size.toNat →
    (∀ b, s.link.readAnswer d = .byte b →
      ∃ buf, Buf.read buf s.rx.idx.toNat = some b ∧
        (∀ j, j ≠ s.rx.idx.toNat → Buf.read buf j = Buf.read s.rx.buf j) ∧
        step s = .next (s.tookByte rest b
          (if s.rx.idx.toNat + 1 < s.rx.size.toNat then
            { s.rx with buf := buf, acc := s.rx.acc + b, idx := s.rx.idx + 1 }
           else if s.rx.hc = true then
            { s.rx with buf := buf, acc := s.rx.acc + b, idx := s.rx.idx + 1, state := .ck }
           else
            { s.rx with
              buf := buf, acc := s.rx.acc + b, idx := s.rx.idx + 1, status := .ok,
              state := .done }))) ∧
    ((∀ b, s.link.readAnswer d ≠ .byte b) →
      step s = .next (s.readFailed rest (s.link.readAnswer d)))

/-- R98: the checksum byte is added before the test; a failed read raises TRANSPORT_FAILURE. -/
def Obligations.CkStepValidatesTheSum : Prop :=
  ∀ (s : State) (d : Draw) (rest : List Input),
    s.tape = .deframer d :: rest → s.cfg.rst = false → s.rx.state = .ck →
    (∀ b, s.link.readAnswer d = .byte b →
      step s = .next (s.tookByte rest b
        (if s.rx.acc + b = 0 then { s.rx with acc := 0, status := .ok, state := .done }
         else
          { s.rx with
            acc := s.rx.acc + b, status := .checksumMismatch, phase := .ck, state := .failed }))) ∧
    ((∀ b, s.link.readAnswer d ≠ .byte b) →
      step s = .next (s.readFailed rest (s.link.readAnswer d)))

/-- R99: in every state that reads, a Read answered Timeout or Error raises TRANSPORT_FAILURE with that state
as phase, consumes nothing and touches nothing else; the host then gets no Packet. In RX_PROBE a Peek answered
None raises nothing. -/
def Obligations.ReadFailureRaisesTransportFailure : Prop :=
  ∀ (s : State) (d : Draw) (rest : List Input),
    s.tape = .deframer d :: rest → s.cfg.rst = false →
    (s.rx.state.reads = true → (∀ b, s.link.readAnswer d ≠ .byte b) →
      step s = .next (s.readFailed rest (s.link.readAnswer d)) ∧
      (s.readFailed rest (s.link.readAnswer d)).rx.record = .failure .transportFailure s.rx.state ∧
      (s.readFailed rest (s.link.readAnswer d)).link.unread = s.link.unread) ∧
    (s.rx.state = .probe → ∃ t, step s = .next t ∧
      (s.link.peekAnswer d = .error → t.rx.record = .failure .transportFailure .probe) ∧
      (s.link.peekAnswer d = .nothing → t.rx.state = .done ∧ t.rx.status = .okUnknownNoLen))

/-- R32: a Peek answered Some(b) leaves the stream as it was, with its first byte b in the pushback slot and the
duty of R32 set; while the duty stands a Read answers Byte(b) or Error whatever the Transport draws. Whatever the
step, a byte in the slot stays there, and the duty with it, until the deframer makes a Read; that Read takes b off
the stream, or answers Error and leaves it, or, where the duty has been met before, may answer Timeout (R35). -/
def Obligations.PushbackDutyIsKept : Prop :=
  (∀ (l : Transport) (n : Nat) (d : Draw) (b : Byte), l.peekAnswer d = .ready b →
    l.unread.head? = some b ∧ (l.afterPeek n d).unread = l.unread ∧
    (l.afterPeek n d).pushback = some b ∧ (l.afterPeek n d).duty = true) ∧
  (∀ (l : Transport) (d : Draw) (b : Byte), l.pushback = some b → l.duty = true →
    l.readAnswer d = .byte b ∨ l.readAnswer d = .error) ∧
  (∀ (s t : State) (b : Byte), s.link.pushback = some b → step s = .next t →
    (t.link.pushback = some b ∧ (s.link.duty = true → t.link.duty = true) ∧
      ∃ r, t.link.rxLog = s.link.rxLog ++ r ∧ ∀ x ∈ r, x.isRead = false) ∨
    (∃ a, t.link.rxLog = s.link.rxLog ++ [.read s.rx.tmo a] ∧ t.link.duty = false ∧
      ((a = .byte b ∧ t.link.pushback = none ∧ s.link.unread = b :: t.link.unread) ∨
        (a = .error ∧ t.link.pushback = some b ∧ t.link.unread = s.link.unread) ∨
        (a = .timeout ∧ s.link.duty = false ∧ t.link.pushback = some b ∧
          t.link.unread = s.link.unread))))

/-- R35: the deterministic Transport's answers on an open link; Timeout, None and Error possible at any transaction
of their kind, but for the Read that R32 binds (a Read may answer Timeout again right after any Read); Error on a
closed link (R34). -/
def Obligations.TransportAnswersFollowTheStream : Prop :=
  ∀ (l : Transport),
    (l.isOpen = true →
      (l.unread = [] → l.readAnswer .prompt = .timeout ∧ l.peekAnswer .prompt = .nothing) ∧
      (∀ b rest, l.unread = b :: rest →
        l.readAnswer .prompt = .byte b ∧ l.peekAnswer .prompt = .ready b) ∧
      (l.duty = false → l.readAnswer .late = .timeout) ∧
      (∀ n d, (l.afterRead n d).readAnswer .late = .timeout) ∧
      l.peekAnswer .late = .nothing ∧
      l.readAnswer .error = .error ∧ l.peekAnswer .error = .error ∧
      l.writeAnswer .ok = .ok ∧ l.writeAnswer .error = .error) ∧
    (l.isOpen = false →
      ∀ d a, l.readAnswer d = .error ∧ l.peekAnswer d = .error ∧ l.writeAnswer a = .error)

/-! ### The frame function and the reference decode -/

/-- R51, R87: in every checked frame the payload and the checksum byte sum to 0 mod 256, and the frame is the
header, LEN, the payload and that byte. -/
def Obligations.ChecksumLaw : Prop :=
  ∀ (wt : Byte) (p : List Byte), p ≠ [] → p.length ≤ 254 →
    ∃ len ck : Byte, frameOf ⟨wt, p, true⟩ = [0xAA, 0x55, wt, len] ++ p ++ [ck] ∧
      len.toNat = p.length + 1 ∧ sum8 p + ck = 0

/-- R86: ENCODE of a Packet the framer takes, then the framer's turns alone. With every Write answered Ok the
framer appends encode(P) in order, one byte a turn, and is done, with OK, exactly after the last; with the
k-th Write answered Error the sink has the first k - 1 bytes and the status is TRANSPORT_FAILURE. -/
def Obligations.FramerSendsTheFrame : Prop :=
  ∀ (s : State) (wt : Byte) (hc : Bool) (p : List Byte) (cmds : List TxCmdRecord),
    s.tx.state = .idle → s.cfg.rst = false → s.link.isOpen = true →
    p.length ≤ 255 → ¬(hc = true ∧ p.length = 255) →
    s.ports.txCmd = ⟨wt, hc, BitVec.ofNat 8 p.length, p⟩ :: cmds →
    (frameOf ⟨wt, p, hc⟩).length = (if p = [] then 3 else p.length + 4 + (if hc then 1 else 0)) ∧
    (∀ (k : Nat) (rest : List Input), k ≤ (frameOf ⟨wt, p, hc⟩).length →
      s.tape = .host .txCmd :: (okTurns k ++ rest) →
      ∃ t, Sys2Proof.core.run (1 + k) s = .next t ∧
        t.link.sink = s.link.sink ++ (frameOf ⟨wt, p, hc⟩).take k ∧
        (t.tx.state = .done ↔ k = (frameOf ⟨wt, p, hc⟩).length) ∧
        (k = (frameOf ⟨wt, p, hc⟩).length → t.tx.status = .ok) ∧
        t.tape = rest ∧ t.rx = s.rx ∧ t.link.unread = s.link.unread ∧ t.cfg = s.cfg ∧
        t.ports = { s.ports with txCmd := cmds }) ∧
    (∀ (k : Nat) (rest : List Input), 1 ≤ k → k ≤ (frameOf ⟨wt, p, hc⟩).length →
      s.tape = .host .txCmd :: (okTurns (k - 1) ++ .framer .error :: rest) →
      ∃ t, Sys2Proof.core.run (1 + k) s = .next t ∧
        t.link.sink = s.link.sink ++ (frameOf ⟨wt, p, hc⟩).take (k - 1) ∧
        t.tx.state = .done ∧ t.tx.status = .transportFailure ∧
        t.tape = rest ∧ t.rx = s.rx ∧ t.link.unread = s.link.unread ∧ t.cfg = s.cfg ∧
        t.ports = { s.ports with txCmd := cmds })

/-- R102: DECODE from RX_IDLE and then the deframer's turns alone, under the deterministic Transport: the
result is decode(s) of the receive stream and exactly its bytes are consumed; the framer and the sink are
untouched. 260 turns are enough for every frame; a turn after the result does nothing. -/
def Obligations.DeframerComputesDecode : Prop :=
  ∀ (s : State) (n : Nat) (tmo : Timeout) (cmds : List Timeout) (rest : List Input),
    s.rx.state = .idle → s.cfg.rst = false → s.link.isOpen = true →
    s.ports.rxCmd = tmo :: cmds → 260 ≤ n →
    s.tape = .host .rxCmd :: (promptTurns n ++ rest) →
    ∃ t, Sys2Proof.core.run (1 + n) s = .next t ∧ t.rxResValid = true ∧
      t.rx.record = (decodeStream s.cfg.kind3b s.link.unread).1 ∧
      t.link.unread = s.link.unread.drop (decodeStream s.cfg.kind3b s.link.unread).2 ∧
      t.tape = rest ∧ t.tx = s.tx ∧ t.link.sink = s.link.sink ∧ t.link.txLog = s.link.txLog ∧
      t.cfg = s.cfg ∧ t.ports = { s.ports with rxCmd := cmds }

/-- R135, R103: for a frame that completes, the deframer takes one step per byte consumed and one for a
probe, no fewer and no more. -/
def Obligations.CompletedFrameTakesOneStepPerByte : Prop :=
  ∀ (s : State) (n : Nat) (tmo : Timeout) (cmds : List Timeout) (rest : List Input)
    (st : Status) (kind : KindId) (wt : Byte) (hc : Bool) (len : Byte) (p : List Byte) (consumed : Nat),
    s.rx.state = .idle → s.cfg.rst = false → s.link.isOpen = true →
    s.ports.rxCmd = tmo :: cmds →
    decodeStream s.cfg.kind3b s.link.unread = (.packet st kind wt hc len p, consumed) →
    s.tape = .host .rxCmd :: (promptTurns n ++ rest) →
    n ≤ consumed + (if kind = .unknown then 1 else 0) →
    ∃ t, Sys2Proof.core.run (1 + n) s = .next t ∧
      (t.rx.state = .done ↔ n = consumed + (if kind = .unknown then 1 else 0)) ∧
      (n < consumed + (if kind = .unknown then 1 else 0) → t.rx.state.inFrame = true)

/-- R27: the result of a DECODE does not depend on what the deframer's registers held before it: two machines
with the same receive stream and the same configuration give the same record and leave the same stream. -/
def Obligations.ResultsDoNotDependOnUnwrittenRegisters : Prop :=
  ∀ (s s' : State) (n : Nat) (tmo : Timeout) (cmds : List Timeout) (rest : List Input),
    s.rx.state = .idle → s.cfg.rst = false → s.link.isOpen = true →
    s.ports.rxCmd = tmo :: cmds → 260 ≤ n →
    s.tape = .host .rxCmd :: (promptTurns n ++ rest) →
    s'.rx.state = .idle → s'.cfg = s.cfg → s'.link = s.link → s'.ports = s.ports →
    s'.tape = s.tape →
    ∃ t t', Sys2Proof.core.run (1 + n) s = .next t ∧ Sys2Proof.core.run (1 + n) s' = .next t' ∧
      t.rxResValid = true ∧ t'.rxResValid = true ∧
      t.rx.record = t'.rx.record ∧ t.link.unread = t'.link.unread

/-- R103: the bytes a DECODE consumes, outcome by outcome, and never more than the stream has. -/
def Obligations.ConsumedBytesPerOutcome : Prop :=
  ∀ (c : Bool) (bs : List Byte) (r : RxRecord) (n : Nat), decodeStream c bs = (r, n) →
    n ≤ bs.length ∧
    (r = .failure .resync .sync1 → n = 1) ∧
    (r = .failure .resync .sync2 → n = 2) ∧
    (∀ k wt hc len p, r = .packet .ok (.known k) wt hc len p → (framingFor k).size = 0 → n = 3) ∧
    (∀ k wt hc len p, r = .packet .okUnknownNoLen k wt hc len p → n = 3) ∧
    (∀ ph, r = .failure .lengthMismatch ph → n = 4) ∧
    (∀ ph, r = .failure .checksumMismatch ph → ∃ l, bs[3]? = some l ∧ n = 4 + l.toNat) ∧
    (∀ k wt hc len p, r = .packet .ok (.known k) wt hc len p → (framingFor k).size ≠ 0 →
      ∃ l, bs[3]? = some l ∧ n = 4 + l.toNat) ∧
    (∀ wt hc len p, r = .packet .ok .unknown wt hc len p → ∃ l, bs[3]? = some l ∧ n = 4 + l.toNat) ∧
    (∀ ph, r = .failure .transportFailure ph → n = bs.length)

/-- R104: the round trip of every catalog kind that cfg_kind_3b selects, what the unselected 0x3B kind gives
instead (under cfg_kind_3b = 1 a JoyStatusRequest frame fails at RX_LEN on any next byte but 0x02, which is the
LEN the other kind expects), and the two unknown-type cases in which it holds; a decoded unknown type always carries
has_checksum = 1, so it cannot hold for an unchecked one. -/
def Obligations.RoundTrip : Prop :=
  (∀ (c : Bool) (k : Kind) (p rest : List Byte),
    p.length = (framingFor k).size.toNat → kindFor c (framingFor k).wireType = some k →
    decodeStream c (frameOf ⟨(framingFor k).wireType, p, (framingFor k).hc⟩ ++ rest) =
      (.packet .ok (.known k) (framingFor k).wireType (framingFor k).hc (framingFor k).size p,
        (frameOf ⟨(framingFor k).wireType, p, (framingFor k).hc⟩).length)) ∧
  (∀ (c : Bool) (k : Kind), kindFor c (framingFor k).wireType ≠ some k ↔
    (k = .joyVersionRequestResponse ∧ c = false) ∨ (k = .joyStatusRequest ∧ c = true)) ∧
  (∀ (a b : Byte) (rest : List Byte),
    decodeStream false (frameOf ⟨0x3B, [a, b], false⟩ ++ rest) =
      (.packet .ok (.known .joyStatusRequest) 0x3B true 0 [], 3) ∧
    (frameOf ⟨0x3B, [a, b], false⟩ ++ rest).drop 3 = 0x02 :: a :: b :: rest) ∧
  (decodeStream true (frameOf ⟨0x3B, [], true⟩) = (.failure .transportFailure .len, 3) ∧
    ∀ b rest, b ≠ 0x02 → decodeStream true (frameOf ⟨0x3B, [], true⟩ ++ b :: rest) =
      (.failure .lengthMismatch .len, 4)) ∧
  (∀ (c : Bool) (t : Byte) (p rest : List Byte),
    kindFor c t = none → 1 ≤ p.length → p.length ≤ 254 →
    decodeStream c (frameOf ⟨t, p, true⟩ ++ rest) =
      (.packet .ok .unknown t true (BitVec.ofNat 8 p.length) p, p.length + 5)) ∧
  (∀ (c : Bool) (t : Byte), kindFor c t = none →
    decodeStream c (frameOf ⟨t, [], true⟩) = (.packet .okUnknownNoLen .unknown t true 0 [], 3)) ∧
  (∀ (c : Bool) (bs : List Byte) (st : Status) (t : Byte) (hc : Bool) (len : Byte) (p : List Byte)
    (n : Nat), decodeStream c bs = (.packet st .unknown t hc len p, n) → hc = true)

/-- R105, R67: a single flipped bit in the payload or in the checksum byte of a checked frame the deframer
expects is always detected, and the whole frame is consumed. -/
def Obligations.SingleBitErrorsAreDetected : Prop :=
  ∀ (c : Bool) (wt : Byte) (p rest : List Byte) (i bit : Nat),
    p ≠ [] → p.length ≤ 254 →
    (kindFor c wt = none ∨
      ∃ k, kindFor c wt = some k ∧ (framingFor k).hc = true ∧ (framingFor k).size.toNat = p.length) →
    4 ≤ i → i < (frameOf ⟨wt, p, true⟩).length → bit < 8 →
    decodeStream c
        ((frameOf ⟨wt, p, true⟩).modify i (fun b => b ^^^ BitVec.twoPow 8 bit) ++ rest) =
      (.failure .checksumMismatch .ck, (frameOf ⟨wt, p, true⟩).length)

/-- R130: a stray 0xAA before a frame: RX_SYNC2 takes the real SYNC1 and the frame is lost. -/
def Obligations.StraySyncLosesTheFrame : Prop :=
  ∀ (c : Bool) (rest : List Byte),
    decodeStream c (0xAA :: 0xAA :: 0x55 :: rest) = (.failure .resync .sync2, 2) ∧
    decodeStream c (0x55 :: rest) = (.failure .resync .sync1, 1)

/-- R70, V-L1-6: DECODE of `AA 55 3A` and whatever follows is complete after three Reads with the command's
timeout and no Peek, and leaves what follows. -/
def Obligations.JoyVersionRequestTakesThreeReads : Prop :=
  ∀ (s : State) (tmo : Timeout) (cmds : List Timeout) (more : List Byte) (rest : List Input),
    s.rx.state = .idle → s.cfg.rst = false → s.link.isOpen = true →
    s.ports.rxCmd = tmo :: cmds → s.link.unread = 0xAA :: 0x55 :: 0x3A :: more →
    s.tape = .host .rxCmd :: (promptTurns 3 ++ rest) →
    ∃ t, Sys2Proof.core.run 4 s = .next t ∧ t.tape = rest ∧ t.link.unread = more ∧
      t.rx.record = .packet .ok (.known .joyVersionRequest) 0x3A false 0 [] ∧
      t.link.rxLog = s.link.rxLog ++
        [.read tmo (.byte 0xAA), .read tmo (.byte 0x55), .read tmo (.byte 0x3A)]

/-! ### The whole machine -/

/-- The invariant of Safety.lean holds at reset. -/
def Obligations.InvariantHoldsAtReset : Prop := State.reset.Inv

/-- R22, R76 to R84, R91 to R101, R107, R124: every step keeps the invariant of Safety.lean. -/
def Obligations.EveryStepKeepsTheInvariant : Prop :=
  ∀ s t : State, s.Inv → step s = .next t → t.Inv

/-- R22, R127: from a state with the invariant the machine faults only when cfg_kind_3b or cfg_peek_timeout
is changed while the deframer is busy; no index leaves its buffer. -/
def Obligations.OnlyAConfigurationChangeFaults : Prop :=
  ∀ (s : State) (f : Fault), s.Inv → step s = .fault f →
    f = .configChangedWhileBusy ∧ s.rxBusy = true ∧
      ∃ k n rest, s.tape = .config k n :: rest ∧ ¬(k = s.cfg.kind3b ∧ n = s.cfg.peekTimeout)

/-- R54, R56 (log 24): the only step that answers a refusal is the handshake of a tx_cmd record whose len is not
its payload's length, and every such handshake is refused; ENCODE of a payload no record can hold is refused. -/
def Obligations.OnlyIllFormedRecordsAreRefused : Prop :=
  (∀ (s : State) (r : Refusal), step s = .refused r ↔
    ∃ (rec : TxCmdRecord) (cmds : List TxCmdRecord) (rest : List Input),
      s.tape = .host .txCmd :: rest ∧ s.ports.txCmd = rec :: cmds ∧
      rec.payload.length ≠ rec.len.toNat ∧
      r = .undecodable (.payloadNotLen rec.len rec.payload.length)) ∧
  (∀ (s : State) (wt : Byte) (hc : Bool) (p : List Byte), 255 < p.length →
    exec (.encode wt hc p) s = .refused .payloadBeyondRecord)

/-- R16, R48, R127: a configuration change while rx_busy = 1 is a fault; driving the same values, or any
values while the deframer is idle, takes effect and changes nothing else. -/
def Obligations.ConfigurationIsStaticWhileBusy : Prop :=
  ∀ (s : State) (k : Bool) (n : Nat) (rest : List Input), s.tape = .config k n :: rest →
    (s.rxBusy = true → ¬(k = s.cfg.kind3b ∧ n = s.cfg.peekTimeout) →
      step s = .fault .configChangedWhileBusy) ∧
    (s.rxBusy = false ∨ (k = s.cfg.kind3b ∧ n = s.cfg.peekTimeout) →
      step s = .next { s with tape := rest, cfg := { s.cfg with kind3b := k, peekTimeout := n } })

/-- R33: a step makes at most one transport transaction; the history only grows. -/
def Obligations.OneTransactionPerStep : Prop :=
  ∀ s t : State, step s = .next t →
    ∃ r w, t.link.rxLog = s.link.rxLog ++ r ∧ t.link.txLog = s.link.txLog ++ w ∧
      r.length + w.length ≤ 1

/-- R31, R37: the transmit stream is append-only, and gains exactly the bytes whose Write was answered Ok. -/
def Obligations.SinkGainsTheAnsweredWrites : Prop :=
  ∀ s t : State, step s = .next t →
    ∃ w, t.link.txLog = s.link.txLog ++ w ∧
      t.link.sink = s.link.sink ++ (w.filter fun x => x.answer == .ok).map TxTransaction.byte

/-- R29, R30, R36, R41: a step leaves the receive stream as it is, or takes its first byte with a Read that
answered that byte, or appends what the remote sender sent; and what the remote sender sends is appended to the
stream's end, whole and in order, and changes nothing else. -/
def Obligations.StreamIsConsumedInOrder : Prop :=
  (∀ s t : State, step s = .next t →
    (t.link.unread = s.link.unread ∧
      ∀ n b, t.link.rxLog ≠ s.link.rxLog ++ [.read n (.byte b)]) ∨
    (∃ b, s.link.unread = b :: t.link.unread ∧
      t.link.rxLog = s.link.rxLog ++ [.read s.rx.tmo (.byte b)]) ∨
    (∃ bs rest, s.tape = .arrive bs :: rest ∧ t.link.unread = s.link.unread ++ bs ∧
      t.link.rxLog = s.link.rxLog)) ∧
  (∀ (s : State) (bs : List Byte) (rest : List Input), s.tape = .arrive bs :: rest →
    ∃ t, step s = .next t ∧ t.link.unread = s.link.unread ++ bs ∧
      t = { s with tape := rest, link := { s.link with line := t.link.line } })

/-- R45, R121: the engines share no register. The framer's turn leaves the deframer and the receive side as
they are, the deframer's turn the framer and the transmit side; neither touches the host's side. -/
def Obligations.EnginesShareNoRegister : Prop :=
  ∀ (s t : State) (rest : List Input), step s = .next t →
    (∀ a, s.tape = .framer a :: rest →
      t.rx = s.rx ∧ t.link.pushback = s.link.pushback ∧ t.link.duty = s.link.duty ∧
      t.link.line = s.link.line ∧
      t.link.rxLog = s.link.rxLog ∧ t.link.isOpen = s.link.isOpen ∧ t.link.avail = s.link.avail ∧
      t.cfg = s.cfg ∧ t.ports = s.ports ∧ t.tape = rest ∧ t.resets = s.resets) ∧
    (∀ d, s.tape = .deframer d :: rest →
      t.tx = s.tx ∧ t.link.sink = s.link.sink ∧ t.link.txLog = s.link.txLog ∧
      t.link.isOpen = s.link.isOpen ∧ t.link.avail = s.link.avail ∧
      t.cfg = s.cfg ∧ t.ports = s.ports ∧ t.tape = rest ∧ t.resets = s.resets)

/-- R44, R45, V-X-7: a framer's turn and a deframer's turn give the same state in either order. -/
def Obligations.EngineTurnsCommute : Prop :=
  ∀ (s t : State) (a : WriteAnswer) (d : Draw) (rest : List Input),
    Sys2Proof.core.run 2 { s with tape := .framer a :: .deframer d :: rest } = .next t ↔
    Sys2Proof.core.run 2 { s with tape := .deframer d :: .framer a :: rest } = .next t

/-- R124: rst, while it is asserted and at the step it is released, sends both engines to idle and leaves the
Transport, the host's offers and variables and the other inputs as they are; while it is asserted no command is
accepted. That an engine's turn does nothing while it is asserted, and that driving it released again changes
nothing, is the model's reading (DEDUCED, log 25). -/
def Obligations.ResetAbandonsBothFrames : Prop :=
  ∀ (s : State) (rest : List Input),
    (s.cfg.rst = false → s.tape = .rst false :: rest → step s = .next { s with tape := rest }) ∧
    (∀ level, s.tape = .rst level :: rest → level = true ∨ s.cfg.rst = true →
      ∃ t, step s = .next t ∧ t.tx.state = .idle ∧ t.rx.state = .idle ∧
        t.link = s.link ∧ t.ports = s.ports ∧ t.cfg = { s.cfg with rst := level } ∧
        t.tape = rest) ∧
    (s.cfg.rst = true →
      (∀ a, s.tape = .framer a :: rest → step s = .next { s with tape := rest }) ∧
      (∀ d, s.tape = .deframer d :: rest → step s = .next { s with tape := rest }) ∧
      (∀ wt hc p, p.length ≤ 255 → exec (.encode wt hc p) s = .next s) ∧
      (∀ n, exec (.decode n) s = .next s))

/-- R116: a result is left only when the host accepts it, or by reset; acceptance returns the engine to
idle. -/
def Obligations.OnlyAcceptanceOrResetLeavesAResult : Prop :=
  ∀ s t : State, step s = .next t →
    (s.tx.state = .done → t.tx ≠ s.tx →
      (∃ rest, s.tape = .host .txDone :: rest ∧ t.tx = { s.tx with state := .idle }) ∨
      (∃ level rest, s.tape = .rst level :: rest)) ∧
    (s.rx.state = .done ∨ s.rx.state = .failed → t.rx ≠ s.rx →
      (∃ rest, s.tape = .host .rxRes :: rest ∧ t.rx = { s.rx with state := .idle }) ∨
      (∃ level rest, s.tape = .rst level :: rest))

/-- R132: once accepted, a frame changes only by its engine's own turns or by reset, and its engine's turns
never return it to idle: it ends in a result. -/
def Obligations.NoMidFrameCancellation : Prop :=
  ∀ s t : State, step s = .next t →
    (s.rx.state.inFrame = true →
      (t.rx = s.rx ∨ (∃ d rest, s.tape = .deframer d :: rest) ∨
        (∃ level rest, s.tape = .rst level :: rest)) ∧
      ((∀ level rest, s.tape ≠ .rst level :: rest) → t.rx.state ≠ .idle)) ∧
    (s.tx.state.sends = true →
      (t.tx = s.tx ∨ (∃ a rest, s.tape = .framer a :: rest) ∨
        (∃ level rest, s.tape = .rst level :: rest)) ∧
      ((∀ level rest, s.tape ≠ .rst level :: rest) → t.tx.state ≠ .idle))

/-- R14: no command is lost or overwritten: an offer goes behind those already on its port and changes nothing else;
it stands until its idle engine accepts it, and offers are accepted in the order they were made. The host's
readiness to accept a result stands until the engine has one. -/
def Obligations.NoCommandIsLost : Prop :=
  (∀ (s : State) (rest : List Input),
    (∀ r, s.tape = .offer (.txCmd r) :: rest →
      step s = .next { s with tape := rest, ports := { s.ports with txCmd := s.ports.txCmd ++ [r] } }) ∧
    (∀ v, s.tape = .offer (.txDone v) :: rest →
      step s = .next { s with tape := rest, ports := { s.ports with txDone := s.ports.txDone ++ [v] } }) ∧
    (∀ n, s.tape = .offer (.rxCmd n) :: rest →
      step s = .next { s with tape := rest, ports := { s.ports with rxCmd := s.ports.rxCmd ++ [n] } }) ∧
    (∀ v, s.tape = .offer (.rxRes v) :: rest →
      step s = .next
        { s with tape := rest, ports := { s.ports with rxRes := s.ports.rxRes ++ [v] } })) ∧
  (∀ s t : State, step s = .next t →
    (t.ports.txCmd = s.ports.txCmd ∨
      (∃ r rest, s.tape = .offer (.txCmd r) :: rest ∧ t.ports.txCmd = s.ports.txCmd ++ [r]) ∨
      (∃ r, s.ports.txCmd = r :: t.ports.txCmd ∧ s.tx.state = .idle ∧ s.cfg.rst = false ∧
        (t.tx.state = .sync1 ∨ (t.tx.state = .done ∧ t.tx.status = .refusedLength)))) ∧
    (t.ports.rxCmd = s.ports.rxCmd ∨
      (∃ n rest, s.tape = .offer (.rxCmd n) :: rest ∧ t.ports.rxCmd = s.ports.rxCmd ++ [n]) ∨
      (∃ n, s.ports.rxCmd = n :: t.ports.rxCmd ∧ s.rx.state = .idle ∧ s.cfg.rst = false ∧
        t.rx.state = .sync1 ∧ t.rx.tmo = n)) ∧
    (t.ports.txDone = s.ports.txDone ∨
      (∃ v rest, s.tape = .offer (.txDone v) :: rest ∧ t.ports.txDone = s.ports.txDone ++ [v]) ∨
      (∃ v, s.ports.txDone = v :: t.ports.txDone ∧ s.tx.state = .done ∧ t.tx.state = .idle)) ∧
    (t.ports.rxRes = s.ports.rxRes ∨
      (∃ v rest, s.tape = .offer (.rxRes v) :: rest ∧ t.ports.rxRes = s.ports.rxRes ++ [v]) ∨
      (∃ v, s.ports.rxRes = v :: t.ports.rxRes ∧ (s.rx.state = .done ∨ s.rx.state = .failed) ∧
        t.rx.state = .idle)))

/-- R38: a record the host has accepted into a variable stays as it is until the host accepts another result
into that variable; in particular no later DECODE changes it. -/
def Obligations.AcceptedRecordsStay : Prop :=
  ∀ (s t : State) (v : Nat), step s = .next t →
    readVar t.ports.vars v ≠ readVar s.ports.vars v →
    (∃ rest, s.tape = .host .txDone :: rest ∧ s.ports.txDone.head? = some v ∧ s.tx.state = .done) ∨
    (∃ rest, s.tape = .host .rxRes :: rest ∧ s.ports.rxRes.head? = some v ∧
      (s.rx.state = .done ∨ s.rx.state = .failed))

/-- R34: on a closed link every turn of an engine that makes a transaction ends its frame in
TRANSPORT_FAILURE, and no byte moves either way. -/
def Obligations.ClosedLinkFailsEveryTransaction : Prop :=
  ∀ (s : State) (rest : List Input), s.link.isOpen = false → s.cfg.rst = false →
    (∀ d, s.tape = .deframer d :: rest → s.rx.state.inFrame = true →
      ∃ t, step s = .next t ∧
        t.rx = { s.rx with status := .transportFailure, phase := s.rx.state, state := .failed } ∧
        t.link.unread = s.link.unread ∧ t.link.pushback = s.link.pushback ∧ t.tx = s.tx) ∧
    (∀ a, s.tape = .framer a :: rest → s.tx.state.sends = true →
      s.tx.idx.toNat < 256 →
      ∃ t, step s = .next t ∧
        t.tx = { s.tx with status := .transportFailure, state := .done } ∧
        t.link.sink = s.link.sink ∧ t.rx = s.rx)

/-- R34: no rule reads rx_avail: but for the input that drives it, a step does the same whatever its level,
and keeps that level. -/
def Obligations.AvailIsNeverRead : Prop :=
  ∀ (s : State) (b : Bool), (∀ level rest, s.tape ≠ .avail level :: rest) →
    (∀ t, step s = .next t → step (s.withAvail b) = .next (t.withAvail b)) ∧
    (∀ f, step s = .fault f → step (s.withAvail b) = .fault f) ∧
    (∀ r, step s = .refused r → step (s.withAvail b) = .refused r)

/-- R5, R18, R57: no rule reads a timeout's bits: an engine's turn or a handshake that accepts no DECODE does
the same whatever rx_tmo and cfg_peek_timeout hold, up to the requests that carry them. -/
def Obligations.TimeoutBitsAreNeverRead : Prop :=
  ∀ (s t : State) (n : Timeout) (m : Nat) (log : List RxTransaction),
    (∀ rest, s.tape ≠ .host .rxCmd :: rest) → (∀ level rest, s.tape ≠ .rst level :: rest) →
    (∀ k q rest, s.tape ≠ .config k q :: rest) →
    step s = .next t →
    ∃ log', step (s.withTimeouts n m log) = .next (t.withTimeouts n m log') ∧
      (t.link.rxLog = s.link.rxLog → log' = log)

/-! ### Pseudo-instructions and instances -/

/-- R64, R89, R90, R106: the expansions; SEND is refused at assembly exactly when the number of bytes is not
the kind's payload size. -/
def Obligations.PseudoInstructionsExpand : Prop :=
  (∀ (k : Kind) (p : List Byte),
    (p.length = (framingFor k).size.toNat →
      expandSend k p = some [.encode (framingFor k).wireType (framingFor k).hc p]) ∧
    (p.length ≠ (framingFor k).size.toNat → expandSend k p = none)) ∧
  (∀ wt hc p v, expandXmit wt hc p v = [.encode wt hc p, .txdone v]) ∧
  (∀ n v, expandRecv n v = [.decode n, .rxres v])

/-- R121: a step of one instance leaves every other instance's state as it is and does not depend on it. -/
def Obligations.InstancesAreIndependent : Prop :=
  ∀ (sys sys' : List State) (k : Nat), stepLink k sys = .next sys' →
    sys'.length = sys.length ∧ (∀ j, j ≠ k → sys'[j]? = sys[j]?) ∧
    (∀ s, sys[k]? = some s → ∃ t, step s = .next t ∧ sys'[k]? = some t)

/-! ### Over runs, and the inputs and engines that stand still -/

/-- R32 over whole runs: while the duty stands with byte b in the slot, the first Read of any run, whatever moves
come before it, answers Byte(b) or Error. -/
def Obligations.TheNextReadAfterAPeekAnswersItsByte : Prop :=
  ∀ (n : Nat) (s t : State) (b : Byte), s.link.pushback = some b → s.link.duty = true →
    Sys2Proof.core.run n s = .next t →
    ∃ r, t.link.rxLog = s.link.rxLog ++ r ∧
      ∀ x, r.find? RxTransaction.isRead = some x →
        ∃ m, x = .read m (.byte b) ∨ x = .read m .error

/-- R15: the moves that drive link_open and rx_avail drive that level and change nothing else. -/
def Obligations.LevelInputsAreDriven : Prop :=
  ∀ (s : State) (level : Bool) (rest : List Input),
    (s.tape = .link level :: rest →
      step s = .next { s with tape := rest, link := { s.link with isOpen := level } }) ∧
    (s.tape = .avail level :: rest →
      step s = .next { s with tape := rest, link := { s.link with avail := level } })

/-- R76, R91, R116, R123: the turn of an engine that is idle or has a result changes nothing, and with no move to
come nothing happens (log 2); the registers of an idle engine change only when it accepts a command, or by reset,
which leaves it idle. -/
def Obligations.IdleEnginesHoldTheirState : Prop :=
  (∀ (s : State) (rest : List Input),
    (s.tape = [] → step s = .next s) ∧
    (∀ a, s.tape = .framer a :: rest → s.tx.state = .idle ∨ s.tx.state = .done →
      step s = .next { s with tape := rest }) ∧
    (∀ d, s.tape = .deframer d :: rest →
      s.rx.state = .idle ∨ s.rx.state = .done ∨ s.rx.state = .failed →
      step s = .next { s with tape := rest })) ∧
  (∀ s t : State, step s = .next t →
    (s.tx.state = .idle → t.tx ≠ s.tx →
      (∃ r cmds rest, s.tape = .host .txCmd :: rest ∧ s.ports.txCmd = r :: cmds ∧
        t.ports.txCmd = cmds ∧ s.cfg.rst = false ∧
        ((t.tx.state = .sync1 ∧ t.tx.wireType = r.wireType ∧ t.tx.hc = r.hasChecksum ∧
            t.tx.len = r.len) ∨
          t.tx = { s.tx with status := .refusedLength, state := .done })) ∨
      (∃ level rest, s.tape = .rst level :: rest ∧ t.tx.state = .idle)) ∧
    (s.rx.state = .idle → t.rx ≠ s.rx →
      (∃ n cmds rest, s.tape = .host .rxCmd :: rest ∧ s.ports.rxCmd = n :: cmds ∧
        t.ports.rxCmd = cmds ∧ s.cfg.rst = false ∧
        t.rx = { s.rx with tmo := n, acc := 0, idx := 0, state := .sync1 }) ∨
      (∃ level rest, s.tape = .rst level :: rest ∧ t.rx.state = .idle)))
end

