-- ==== Sys2Proof/Laws/Codec.lean ====
section
/-!
SUPPORT. The laws of the pure functions: sums and LEN (00_scope.md R7, 30_encoding.md R52), payload buffers
(20_memory.md R38), host variables, the decoder on headers and the catalog's lookup (R53, R63, R73).
-/
namespace Sys2Proof.Machine

@[simp] theorem sum8_nil : sum8 [] = 0 := rfl

@[simp] theorem sum8_cons (b : Byte) (bs : List Byte) : sum8 (b :: bs) = b + sum8 bs := rfl

theorem sum8_append (xs ys : List Byte) : sum8 (xs ++ ys) = sum8 xs + sum8 ys := by
  induction xs with
  | nil => simp
  | cons b bs ih => simp [ih, BitVec.add_assoc]

@[simp] theorem checksumOf_nil : checksumOf [] = 0 := rfl

theorem checksumOf_append_singleton (xs : List Byte) (b : Byte) :
    checksumOf (xs ++ [b]) = checksumOf xs - b := by
  simp only [checksumOf, sum8_append, sum8_cons, sum8_nil]
  generalize sum8 xs = a
  bv_omega

/-- LEN does not wrap for a Packet the framer takes (R80). -/
theorem lenByte_toNat (n : Byte) (hc : Bool) (h : ¬(hc = true ∧ n = 255)) :
    (lenByte n hc).toNat = expectedLen n hc := by
  cases hc with
  | false => simp [lenByte, expectedLen, zextFlag]
  | true =>
    have hn : n.toNat ≠ 255 := fun e => h ⟨rfl, BitVec.eq_of_toNat_eq (by simpa using e)⟩
    have := n.isLt
    simp only [lenByte, expectedLen, zextFlag, if_true]
    rw [BitVec.toNat_add]
    simp
    omega

@[simp] theorem length_take_buf (buf : Buf) (n : Nat) (h : n ≤ 256) : (Buf.take buf n).length = n := by
  simp [Buf.take, h]

@[simp] theorem take_buf_zero (buf : Buf) : Buf.take buf 0 = [] := by simp [Buf.take]

/-- Reading inside the buffer always gives a byte. -/
theorem read_isSome (buf : Buf) (i : Nat) (h : i < 256) : ∃ b, Buf.read buf i = some b :=
  ⟨buf[i], by simp [Buf.read, h]⟩

/-- The bytes of a buffer up to and with index `i`. -/
theorem take_succ_of_read {buf : Buf} {i : Nat} {b : Byte} (h : Buf.read buf i = some b) :
    Buf.take buf (i + 1) = Buf.take buf i ++ [b] := by
  simp only [Buf.read] at h
  have hi : i < 256 := by
    by_contra hn
    simp [hn] at h
  have hb : buf.toList[i]? = some b := by
    rw [← h]
    simp
  simp only [Buf.take, List.take_add_one, hb, Option.toList_some]

/-- A write inside the buffer succeeds, and beyond it does not. -/
theorem write_isSome (buf : Buf) (i : Nat) (b : Byte) (h : i < 256) :
    ∃ buf', Buf.write buf i b = some buf' := ⟨buf.set i b h, by simp [Buf.write, h]⟩

theorem write_none (buf : Buf) (i : Nat) (b : Byte) : Buf.write buf i b = none ↔ 256 ≤ i := by
  by_cases h : i < 256
  · simp [Buf.write, h]
  · simp [Buf.write, h]
    omega

/-- A written byte follows the bytes before it, which are as they were. -/
theorem take_succ_of_write {buf buf' : Buf} {i : Nat} {b : Byte} (h : Buf.write buf i b = some buf') :
    Buf.take buf' (i + 1) = Buf.take buf i ++ [b] := by
  by_cases hi : i < 256
  · simp only [Buf.write, hi, dite_true, Option.some.injEq] at h
    subst h
    simp only [Buf.take, Vector.toList_set, List.take_add_one]
    rw [List.take_set_of_le (Nat.le_refl i)]
    simp [hi]
  · simp [Buf.write, hi] at h

theorem read_loadFrom_lt (p : List Byte) : ∀ (buf : Buf) (i j : Nat), j < i →
    Buf.read (Buf.loadFrom buf i p) j = Buf.read buf j := by
  induction p with
  | nil => intros; rfl
  | cons b bs ih =>
    intro buf i j h
    rw [Buf.loadFrom, ih _ _ _ (by omega)]
    simp only [Buf.read]
    rw [Vector.getElem?_setIfInBounds_ne (by omega)]

theorem read_loadFrom_ge (p : List Byte) : ∀ (buf : Buf) (i j : Nat), i + p.length ≤ j →
    Buf.read (Buf.loadFrom buf i p) j = Buf.read buf j := by
  induction p with
  | nil => intros; rfl
  | cons b bs ih =>
    intro buf i j h
    simp only [List.length_cons] at h
    rw [Buf.loadFrom, ih _ _ _ (by omega)]
    simp only [Buf.read]
    rw [Vector.getElem?_setIfInBounds_ne (by omega)]

theorem read_loadFrom_mid (p : List Byte) : ∀ (buf : Buf) (i j : Nat), j < p.length → i + j < 256 →
    Buf.read (Buf.loadFrom buf i p) (i + j) = p[j]? := by
  induction p with
  | nil => intro _ _ _ h; simp at h
  | cons b bs ih =>
    intro buf i j h hlt
    cases j with
    | zero =>
      rw [Buf.loadFrom, read_loadFrom_lt _ _ _ _ (by omega)]
      simp only [Buf.read, Nat.add_zero] at *
      simp [hlt]
    | succ j =>
      rw [Buf.loadFrom, show i + (j + 1) = (i + 1) + j by omega,
        ih _ _ _ (by simpa using h) (by omega)]
      simp

/-- The deep copy of ENCODE acceptance (R38, R76): the payload stands at the front of the buffer. -/
theorem read_load (buf : Buf) (p : List Byte) (j : Nat) (h : j < p.length) (hp : p.length ≤ 256) :
    Buf.read (buf.load p) j = p[j]? := by
  have := read_loadFrom_mid p buf 0 j h (by omega)
  simpa [Buf.load] using this

/-- The bytes behind the payload are as they were. -/
theorem read_load_beyond (buf : Buf) (p : List Byte) (j : Nat) (h : p.length ≤ j) :
    Buf.read (buf.load p) j = Buf.read buf j :=
  read_loadFrom_ge p buf 0 j (by omega)

theorem take_load (buf : Buf) (p : List Byte) (hp : p.length ≤ 256) :
    Buf.take (buf.load p) p.length = p := by
  apply List.ext_getElem?
  intro j
  by_cases hj : j < p.length
  · have := read_load buf p j hj hp
    simp only [Buf.read] at this
    simp only [Buf.take, List.getElem?_take, hj, if_true]
    rw [← this]
    simp
  · rw [List.getElem?_eq_none (by simp [Buf.take]; omega), List.getElem?_eq_none (by omega)]

/-- A record received into a variable is what the variable holds. -/
theorem readVar_writeVar_self (v : Nat) (r : HostRecord) (vars : List (Nat × HostRecord)) :
    readVar (writeVar v r vars) v = some r := by
  induction vars with
  | nil => simp [writeVar, readVar]
  | cons e rest ih =>
    obtain ⟨k, q⟩ := e
    simp only [writeVar]
    split
    · simp [readVar]
    · split
      · simp [readVar]
      · rename_i h
        simp only [readVar, ih, if_neg (fun e : k = v => h e.symm)]

/-- Every other variable holds what it held. -/
theorem readVar_writeVar_other (v w : Nat) (r : HostRecord) (vars : List (Nat × HostRecord)) (h : w ≠ v) :
    readVar (writeVar v r vars) w = readVar vars w := by
  induction vars with
  | nil => simp [writeVar, readVar, Ne.symm h]
  | cons e rest ih =>
    obtain ⟨k, q⟩ := e
    simp only [writeVar]
    split
    · simp [readVar, Ne.symm h]
    · split
      · rename_i e
        subst e
        simp [readVar, Ne.symm h]
      · simp [readVar, ih]

theorem mem_writeVar {v : Nat} {r : HostRecord} {vars : List (Nat × HostRecord)} {e : Nat × HostRecord}
    (h : e ∈ writeVar v r vars) : e = (v, r) ∨ e ∈ vars := by
  induction vars with
  | nil => simpa [writeVar] using h
  | cons x rest ih =>
    obtain ⟨k, q⟩ := x
    simp only [writeVar] at h
    split at h
    · simpa using h
    · split at h
      · rcases List.mem_cons.1 h with h | h
        · exact .inl h
        · exact .inr (List.mem_cons_of_mem _ h)
      · rcases List.mem_cons.1 h with h | h
        · exact .inr (by simp [h])
        · rcases ih h with h | h
          · exact .inl h
          · exact .inr (List.mem_cons_of_mem _ h)

/-- Receiving a record keeps the canonical form of the host variables. -/
theorem varsOk_writeVar (v : Nat) (r : HostRecord) (vars : List (Nat × HostRecord)) (h : varsOk vars) :
    varsOk (writeVar v r vars) := by
  induction vars with
  | nil => simp [writeVar, varsOk]
  | cons x rest ih =>
    obtain ⟨k, q⟩ := x
    have hx : (∀ w ∈ rest.map Prod.fst, k < w) ∧ varsOk rest := by simpa [varsOk] using h
    simp only [writeVar]
    split
    · rename_i hlt
      simp only [varsOk, List.map_cons, List.pairwise_cons, List.mem_cons] at h ⊢
      refine ⟨?_, h⟩
      rintro w (rfl | hw)
      · exact hlt
      · exact Nat.lt_trans hlt (hx.1 w hw)
    · split
      · rename_i e
        subst e
        simpa [varsOk] using h
      · rename_i h1 h2
        have hr := ih hx.2
        simp only [varsOk, List.map_cons, List.pairwise_cons] at hr ⊢
        refine ⟨?_, hr⟩
        intro w hw
        obtain ⟨e, he, rfl⟩ := List.mem_map.1 hw
        rcases mem_writeVar he with rfl | he
        · simp only
          omega
        · exact hx.1 _ (List.mem_map.2 ⟨e, he, rfl⟩)

/-- The fields of the header word are its three bytes, the first in the high bits (R51). -/
theorem headerWord_fields (b0 b1 b2 : Byte) :
    (headerWord b0 b1 b2).extractLsb' 16 8 = b0 ∧ (headerWord b0 b1 b2).extractLsb' 8 8 = b1 ∧
      (headerWord b0 b1 b2).extractLsb' 0 8 = b2 := by
  refine ⟨?_, ?_, ?_⟩ <;>
    (apply BitVec.eq_of_getElem_eq
     intro i hi
     rw [BitVec.getElem_extractLsb']
     simp only [headerWord, BitVec.getLsbD_append]
     interval_cases i <;> simp)

/-- The decoder on a header whose sync bytes stand (R53, R63). -/
theorem decode_sync_header (kind3b : Bool) (t : Byte) (rest : List Byte) :
    decode kind3b (.header (0xAA :: 0x55 :: t :: rest)) =
      .instr
        (match kindFor kind3b t with
          | some .lcdUpdate => .frameLcdUpdate
          | some .lcdUpdateResponse => .frameLcdUpdateResponse
          | some .joyStatusRequest => .frameJoyStatusRequest
          | some .joyStatusRequestResponse => .frameJoyStatusRequestResponse
          | some .joyVersionRequest => .frameJoyVersionRequest
          | some .joyVersionRequestResponse => .frameJoyVersionRequestResponse
          | none => .frameUnknown t) := by
  show decodeHeader kind3b (headerWord 0xAA 0x55 t) = _
  revert t kind3b
  decide

/-- A type is unknown to the catalog under one value of cfg_kind_3b exactly when it is under both (R72). -/
theorem kindFor_none (kind3b : Bool) (t : Byte) : kindFor kind3b t = none ↔ catalogType t = false := by
  revert t kind3b
  decide

/-- The catalog's row of the kind a TYPE byte is looked up as carries that byte. -/
theorem framingFor_kindFor {kind3b : Bool} {t : Byte} {k : Kind} (h : kindFor kind3b t = some k) :
    (framingFor k).wireType = t := by
  revert h k t kind3b
  decide

end Sys2Proof.Machine
end

