-- ==== Sys2Proof/Laws/State.lean ====
section
/-!
SUPPORT. One lemma per field per update of the state's records, each true by rfl: no later proof unfolds a
record update.
-/
namespace Sys2Proof.Machine

@[simp] theorem TxRegs.finish_wireType (r : TxRegs) (st : Status) :
    (r.finish st).wireType = r.wireType := rfl
@[simp] theorem TxRegs.finish_hc (r : TxRegs) (st : Status) :
    (r.finish st).hc = r.hc := rfl
@[simp] theorem TxRegs.finish_len (r : TxRegs) (st : Status) :
    (r.finish st).len = r.len := rfl
@[simp] theorem TxRegs.finish_buf (r : TxRegs) (st : Status) :
    (r.finish st).buf = r.buf := rfl
@[simp] theorem TxRegs.finish_idx (r : TxRegs) (st : Status) :
    (r.finish st).idx = r.idx := rfl
@[simp] theorem TxRegs.finish_acc (r : TxRegs) (st : Status) :
    (r.finish st).acc = r.acc := rfl
@[simp] theorem TxRegs.finish_state (r : TxRegs) (st : Status) :
    (r.finish st).state = .done := rfl
@[simp] theorem TxRegs.finish_status (r : TxRegs) (st : Status) :
    (r.finish st).status = st := rfl
@[simp] theorem TxRegs.toIdle_wireType (r : TxRegs) :
    r.toIdle.wireType = r.wireType := rfl
@[simp] theorem TxRegs.toIdle_hc (r : TxRegs) :
    r.toIdle.hc = r.hc := rfl
@[simp] theorem TxRegs.toIdle_len (r : TxRegs) :
    r.toIdle.len = r.len := rfl
@[simp] theorem TxRegs.toIdle_buf (r : TxRegs) :
    r.toIdle.buf = r.buf := rfl
@[simp] theorem TxRegs.toIdle_idx (r : TxRegs) :
    r.toIdle.idx = r.idx := rfl
@[simp] theorem TxRegs.toIdle_acc (r : TxRegs) :
    r.toIdle.acc = r.acc := rfl
@[simp] theorem TxRegs.toIdle_status (r : TxRegs) :
    r.toIdle.status = r.status := rfl
@[simp] theorem TxRegs.toIdle_state (r : TxRegs) :
    r.toIdle.state = .idle := rfl
@[simp] theorem RxRegs.finish_tmo (r : RxRegs) (st : Status) :
    (r.finish st).tmo = r.tmo := rfl
@[simp] theorem RxRegs.finish_wireType (r : RxRegs) (st : Status) :
    (r.finish st).wireType = r.wireType := rfl
@[simp] theorem RxRegs.finish_kind (r : RxRegs) (st : Status) :
    (r.finish st).kind = r.kind := rfl
@[simp] theorem RxRegs.finish_hc (r : RxRegs) (st : Status) :
    (r.finish st).hc = r.hc := rfl
@[simp] theorem RxRegs.finish_size (r : RxRegs) (st : Status) :
    (r.finish st).size = r.size := rfl
@[simp] theorem RxRegs.finish_buf (r : RxRegs) (st : Status) :
    (r.finish st).buf = r.buf := rfl
@[simp] theorem RxRegs.finish_idx (r : RxRegs) (st : Status) :
    (r.finish st).idx = r.idx := rfl
@[simp] theorem RxRegs.finish_acc (r : RxRegs) (st : Status) :
    (r.finish st).acc = r.acc := rfl
@[simp] theorem RxRegs.finish_phase (r : RxRegs) (st : Status) :
    (r.finish st).phase = r.phase := rfl
@[simp] theorem RxRegs.finish_state (r : RxRegs) (st : Status) :
    (r.finish st).state = .done := rfl
@[simp] theorem RxRegs.finish_status (r : RxRegs) (st : Status) :
    (r.finish st).status = st := rfl
@[simp] theorem RxRegs.raise_tmo (r : RxRegs) (st : Status) (p : RxState) :
    (r.raise st p).tmo = r.tmo := rfl
@[simp] theorem RxRegs.raise_wireType (r : RxRegs) (st : Status) (p : RxState) :
    (r.raise st p).wireType = r.wireType := rfl
@[simp] theorem RxRegs.raise_kind (r : RxRegs) (st : Status) (p : RxState) :
    (r.raise st p).kind = r.kind := rfl
@[simp] theorem RxRegs.raise_hc (r : RxRegs) (st : Status) (p : RxState) :
    (r.raise st p).hc = r.hc := rfl
@[simp] theorem RxRegs.raise_size (r : RxRegs) (st : Status) (p : RxState) :
    (r.raise st p).size = r.size := rfl
@[simp] theorem RxRegs.raise_buf (r : RxRegs) (st : Status) (p : RxState) :
    (r.raise st p).buf = r.buf := rfl
@[simp] theorem RxRegs.raise_idx (r : RxRegs) (st : Status) (p : RxState) :
    (r.raise st p).idx = r.idx := rfl
@[simp] theorem RxRegs.raise_acc (r : RxRegs) (st : Status) (p : RxState) :
    (r.raise st p).acc = r.acc := rfl
@[simp] theorem RxRegs.raise_state (r : RxRegs) (st : Status) (p : RxState) :
    (r.raise st p).state = .failed := rfl
@[simp] theorem RxRegs.raise_status (r : RxRegs) (st : Status) (p : RxState) :
    (r.raise st p).status = st := rfl
@[simp] theorem RxRegs.raise_phase (r : RxRegs) (st : Status) (p : RxState) :
    (r.raise st p).phase = p := rfl
@[simp] theorem RxRegs.toIdle_tmo (r : RxRegs) :
    r.toIdle.tmo = r.tmo := rfl
@[simp] theorem RxRegs.toIdle_wireType (r : RxRegs) :
    r.toIdle.wireType = r.wireType := rfl
@[simp] theorem RxRegs.toIdle_kind (r : RxRegs) :
    r.toIdle.kind = r.kind := rfl
@[simp] theorem RxRegs.toIdle_hc (r : RxRegs) :
    r.toIdle.hc = r.hc := rfl
@[simp] theorem RxRegs.toIdle_size (r : RxRegs) :
    r.toIdle.size = r.size := rfl
@[simp] theorem RxRegs.toIdle_buf (r : RxRegs) :
    r.toIdle.buf = r.buf := rfl
@[simp] theorem RxRegs.toIdle_idx (r : RxRegs) :
    r.toIdle.idx = r.idx := rfl
@[simp] theorem RxRegs.toIdle_acc (r : RxRegs) :
    r.toIdle.acc = r.acc := rfl
@[simp] theorem RxRegs.toIdle_status (r : RxRegs) :
    r.toIdle.status = r.status := rfl
@[simp] theorem RxRegs.toIdle_phase (r : RxRegs) :
    r.toIdle.phase = r.phase := rfl
@[simp] theorem RxRegs.toIdle_state (r : RxRegs) :
    r.toIdle.state = .idle := rfl
@[simp] theorem State.sendByte_rx (s : State) (a : WriteAnswer) (b : Byte) (r : TxRegs) :
    (s.sendByte a b r).rx = s.rx := rfl
@[simp] theorem State.sendByte_cfg (s : State) (a : WriteAnswer) (b : Byte) (r : TxRegs) :
    (s.sendByte a b r).cfg = s.cfg := rfl
@[simp] theorem State.sendByte_ports (s : State) (a : WriteAnswer) (b : Byte) (r : TxRegs) :
    (s.sendByte a b r).ports = s.ports := rfl
@[simp] theorem State.sendByte_tape (s : State) (a : WriteAnswer) (b : Byte) (r : TxRegs) :
    (s.sendByte a b r).tape = s.tape := rfl
@[simp] theorem State.sendByte_resets (s : State) (a : WriteAnswer) (b : Byte) (r : TxRegs) :
    (s.sendByte a b r).resets = s.resets := rfl
@[simp] theorem State.sendByte_link (s : State) (a : WriteAnswer) (b : Byte) (r : TxRegs) :
    (s.sendByte a b r).link = s.link.afterWrite b a := rfl
@[simp] theorem State.afterRead_tx (s : State) (d : Draw) :
    (s.afterRead d).tx = s.tx := rfl
@[simp] theorem State.afterRead_rx (s : State) (d : Draw) :
    (s.afterRead d).rx = s.rx := rfl
@[simp] theorem State.afterRead_cfg (s : State) (d : Draw) :
    (s.afterRead d).cfg = s.cfg := rfl
@[simp] theorem State.afterRead_ports (s : State) (d : Draw) :
    (s.afterRead d).ports = s.ports := rfl
@[simp] theorem State.afterRead_tape (s : State) (d : Draw) :
    (s.afterRead d).tape = s.tape := rfl
@[simp] theorem State.afterRead_resets (s : State) (d : Draw) :
    (s.afterRead d).resets = s.resets := rfl
@[simp] theorem State.afterRead_link (s : State) (d : Draw) :
    (s.afterRead d).link = s.link.afterRead s.rx.tmo d := rfl
@[simp] theorem State.receiveByte_tx (s : State) (d : Draw) (g : Byte → RxRegs) :
    (s.receiveByte d g).tx = s.tx := rfl
@[simp] theorem State.receiveByte_cfg (s : State) (d : Draw) (g : Byte → RxRegs) :
    (s.receiveByte d g).cfg = s.cfg := rfl
@[simp] theorem State.receiveByte_ports (s : State) (d : Draw) (g : Byte → RxRegs) :
    (s.receiveByte d g).ports = s.ports := rfl
@[simp] theorem State.receiveByte_tape (s : State) (d : Draw) (g : Byte → RxRegs) :
    (s.receiveByte d g).tape = s.tape := rfl
@[simp] theorem State.receiveByte_resets (s : State) (d : Draw) (g : Byte → RxRegs) :
    (s.receiveByte d g).resets = s.resets := rfl
@[simp] theorem State.receiveByte_link (s : State) (d : Draw) (g : Byte → RxRegs) :
    (s.receiveByte d g).link = s.link.afterRead s.rx.tmo d := rfl
@[simp] theorem State.blockReset_link (s : State) :
    s.blockReset.link = s.link := rfl
@[simp] theorem State.blockReset_cfg (s : State) :
    s.blockReset.cfg = s.cfg := rfl
@[simp] theorem State.blockReset_ports (s : State) :
    s.blockReset.ports = s.ports := rfl
@[simp] theorem State.blockReset_tape (s : State) :
    s.blockReset.tape = s.tape := rfl
@[simp] theorem State.blockReset_tx_state (s : State) :
    s.blockReset.tx.state = .idle := rfl
@[simp] theorem State.blockReset_rx_state (s : State) :
    s.blockReset.rx.state = .idle := rfl
@[simp] theorem State.blockReset_resets (s : State) :
    s.blockReset.resets = s.resets + 1 := rfl
@[simp] theorem Ports.place_vars (p : Ports) (o : Offer) : (p.place o).vars = p.vars := by
  cases o <;> rfl
@[simp] theorem Ports.take_vars (p : Ports) (h : HostPort) : (p.take h).vars = p.vars := by
  cases h <;> rfl
@[simp] theorem Ports.take_txCmd_txCmd (p : Ports) :
    (p.take .txCmd).txCmd = p.txCmd.tail := rfl
@[simp] theorem Ports.take_txCmd_txDone (p : Ports) :
    (p.take .txCmd).txDone = p.txDone := rfl
@[simp] theorem Ports.take_txCmd_rxCmd (p : Ports) :
    (p.take .txCmd).rxCmd = p.rxCmd := rfl
@[simp] theorem Ports.take_txCmd_rxRes (p : Ports) :
    (p.take .txCmd).rxRes = p.rxRes := rfl
@[simp] theorem Ports.take_txDone_txCmd (p : Ports) :
    (p.take .txDone).txCmd = p.txCmd := rfl
@[simp] theorem Ports.take_txDone_txDone (p : Ports) :
    (p.take .txDone).txDone = p.txDone.tail := rfl
@[simp] theorem Ports.take_txDone_rxCmd (p : Ports) :
    (p.take .txDone).rxCmd = p.rxCmd := rfl
@[simp] theorem Ports.take_txDone_rxRes (p : Ports) :
    (p.take .txDone).rxRes = p.rxRes := rfl
@[simp] theorem Ports.take_rxCmd_txCmd (p : Ports) :
    (p.take .rxCmd).txCmd = p.txCmd := rfl
@[simp] theorem Ports.take_rxCmd_txDone (p : Ports) :
    (p.take .rxCmd).txDone = p.txDone := rfl
@[simp] theorem Ports.take_rxCmd_rxCmd (p : Ports) :
    (p.take .rxCmd).rxCmd = p.rxCmd.tail := rfl
@[simp] theorem Ports.take_rxCmd_rxRes (p : Ports) :
    (p.take .rxCmd).rxRes = p.rxRes := rfl
@[simp] theorem Ports.take_rxRes_txCmd (p : Ports) :
    (p.take .rxRes).txCmd = p.txCmd := rfl
@[simp] theorem Ports.take_rxRes_txDone (p : Ports) :
    (p.take .rxRes).txDone = p.txDone := rfl
@[simp] theorem Ports.take_rxRes_rxCmd (p : Ports) :
    (p.take .rxRes).rxCmd = p.rxCmd := rfl
@[simp] theorem Ports.take_rxRes_rxRes (p : Ports) :
    (p.take .rxRes).rxRes = p.rxRes.tail := rfl

end Sys2Proof.Machine
end

