-- ==== Sys2Proof/Laws/Ops.lean ====
section
/-!
SUPPORT. What each shared operation can do, said once: the Transport's transactions (20_memory.md R29 to R37),
the framer's and the deframer's one-transaction steps (R33, 41_framer.md R83, 42_deframer.md R99), and the
fetch (10_state.md R13).
-/
namespace Sys2Proof.Machine

/-- A Read's answer is Byte of the stream's first byte, Timeout or Error; Byte takes that byte off the
stream, the others take nothing (R29, R36). -/
theorem afterRead_cases (l : Transport) (t : Timeout) (d : Draw) :
    (∃ b rest, l.isOpen = true ∧ l.readAnswer d = .byte b ∧ l.unread = b :: rest ∧
      l.afterRead t d =
        { l with pushback := none, duty := false, line := rest, rxLog := l.rxLog ++ [.read t (.byte b)] }) ∨
    (l.readAnswer d = .timeout ∧ (l.duty = true → l.unread = []) ∧
      l.afterRead t d = { l with duty := false, rxLog := l.rxLog ++ [.read t .timeout] }) ∨
    (l.readAnswer d = .error ∧
      l.afterRead t d = { l with duty := false, rxLog := l.rxLog ++ [.read t .error] }) := by
  obtain ⟨pb, duty, line, sink, isOpen, avail, rxLog, txLog⟩ := l
  cases isOpen <;> cases d <;> cases pb <;> cases line <;> cases duty <;>
    simp [Transport.afterRead, Transport.readAnswer, Transport.promptRead, Transport.unread]

/-- The deterministic Transport's Read (R35). -/
theorem readAnswer_prompt (l : Transport) (h : l.isOpen = true) :
    l.readAnswer .prompt = match l.unread with
      | [] => .timeout
      | b :: _ => .byte b := by
  cases hu : l.unread <;> simp [Transport.readAnswer, Transport.promptRead, h, hu]

/-- While the pushback duty stands a Read answers the byte in the slot or Error, whatever is drawn (R32). -/
theorem readAnswer_duty (l : Transport) (d : Draw) (b : Byte) (hd : l.duty = true)
    (hp : l.pushback = some b) : l.readAnswer d = .byte b ∨ l.readAnswer d = .error := by
  cases ho : l.isOpen <;> cases d <;>
    simp [Transport.readAnswer, Transport.promptRead, Transport.unread, ho, hd, hp]

/-- No Read leaves a duty behind (R32 binds the next Read only). -/
@[simp] theorem Transport.afterRead_duty (l : Transport) (t : Timeout) (d : Draw) :
    (l.afterRead t d).duty = false := by
  unfold Transport.afterRead
  split <;> rfl

/-- A Write leaves the receive side as it is (R45). -/
@[simp] theorem Transport.afterWrite_duty (l : Transport) (b : Byte) (a : WriteAnswer) :
    (l.afterWrite b a).duty = l.duty := by
  unfold Transport.afterWrite
  split <;> rfl

@[simp] theorem Transport.afterWrite_pushback (l : Transport) (b : Byte) (a : WriteAnswer) :
    (l.afterWrite b a).pushback = l.pushback := by
  unfold Transport.afterWrite
  split <;> rfl

/-- A closed link answers Error to every Read, Peek and Write (R34). -/
theorem answers_closed (l : Transport) (h : l.isOpen = false) (d : Draw) (a : WriteAnswer) :
    l.readAnswer d = .error ∧ l.peekAnswer d = .error ∧ l.writeAnswer a = .error := by
  simp [Transport.readAnswer, Transport.peekAnswer, Transport.writeAnswer, h]

@[simp] theorem Transport.afterRead_sink (l : Transport) (t : Timeout) (d : Draw) :
    (l.afterRead t d).sink = l.sink := by
  unfold Transport.afterRead
  split <;> rfl

@[simp] theorem Transport.afterRead_isOpen (l : Transport) (t : Timeout) (d : Draw) :
    (l.afterRead t d).isOpen = l.isOpen := by
  unfold Transport.afterRead
  split <;> rfl

@[simp] theorem Transport.afterRead_avail (l : Transport) (t : Timeout) (d : Draw) :
    (l.afterRead t d).avail = l.avail := by
  unfold Transport.afterRead
  split <;> rfl

@[simp] theorem Transport.afterRead_txLog (l : Transport) (t : Timeout) (d : Draw) :
    (l.afterRead t d).txLog = l.txLog := by
  unfold Transport.afterRead
  split <;> rfl

/-- A Read is one transaction on rx_read (R33). -/
theorem Transport.afterRead_rxLog (l : Transport) (t : Timeout) (d : Draw) :
    (l.afterRead t d).rxLog = l.rxLog ++ [.read t (l.readAnswer d)] := by
  unfold Transport.afterRead
  split <;> simp_all

/-- A Peek's answer is Some of the stream's first byte, None or Error; it never changes the stream, and Some
leaves the byte in the pushback slot (R30, R32). -/
theorem afterPeek_cases (l : Transport) (t : Nat) (d : Draw) :
    (∃ b rest, l.isOpen = true ∧ l.peekAnswer d = .ready b ∧ l.unread = b :: rest ∧
      l.afterPeek t d =
        { l with pushback := some b, duty := true, line := rest, rxLog := l.rxLog ++ [.peek t (.ready b)] }) ∨
    (l.peekAnswer d = .nothing ∧ l.afterPeek t d = { l with rxLog := l.rxLog ++ [.peek t .nothing] }) ∨
    (l.peekAnswer d = .error ∧ l.afterPeek t d = { l with rxLog := l.rxLog ++ [.peek t .error] }) := by
  obtain ⟨pb, duty, line, sink, isOpen, avail, rxLog, txLog⟩ := l
  cases isOpen <;> cases d <;> cases pb <;> cases line <;>
    simp [Transport.afterPeek, Transport.peekAnswer, Transport.unread]

@[simp] theorem Transport.afterPeek_unread (l : Transport) (t : Nat) (d : Draw) :
    (l.afterPeek t d).unread = l.unread := by
  rcases afterPeek_cases l t d with ⟨b, rest, -, -, hu, ha⟩ | ⟨-, ha⟩ | ⟨-, ha⟩
  · rw [ha, hu]
    rfl
  · rw [ha]
    rfl
  · rw [ha]
    rfl

@[simp] theorem Transport.afterPeek_sink (l : Transport) (t : Nat) (d : Draw) :
    (l.afterPeek t d).sink = l.sink := by
  unfold Transport.afterPeek
  split <;> rfl

@[simp] theorem Transport.afterPeek_isOpen (l : Transport) (t : Nat) (d : Draw) :
    (l.afterPeek t d).isOpen = l.isOpen := by
  unfold Transport.afterPeek
  split <;> rfl

@[simp] theorem Transport.afterPeek_avail (l : Transport) (t : Nat) (d : Draw) :
    (l.afterPeek t d).avail = l.avail := by
  unfold Transport.afterPeek
  split <;> rfl

@[simp] theorem Transport.afterPeek_txLog (l : Transport) (t : Nat) (d : Draw) :
    (l.afterPeek t d).txLog = l.txLog := by
  unfold Transport.afterPeek
  split <;> rfl

/-- A Write is answered Ok and appends its byte, or is answered Error and appends nothing (R31, R37). -/
theorem afterWrite_cases (l : Transport) (b : Byte) (a : WriteAnswer) :
    (l.writeAnswer a = .ok ∧ l.isOpen = true ∧ a = .ok ∧
      l.afterWrite b a = { l with sink := l.sink ++ [b], txLog := l.txLog ++ [⟨b, .ok⟩] }) ∨
    (l.writeAnswer a = .error ∧
      l.afterWrite b a = { l with txLog := l.txLog ++ [⟨b, .error⟩] }) := by
  obtain ⟨pb, duty, line, sink, isOpen, avail, rxLog, txLog⟩ := l
  cases isOpen <;> cases a <;> simp [Transport.afterWrite, Transport.writeAnswer]

@[simp] theorem Transport.afterWrite_unread (l : Transport) (b : Byte) (a : WriteAnswer) :
    (l.afterWrite b a).unread = l.unread := by
  unfold Transport.afterWrite
  split <;> rfl

@[simp] theorem Transport.afterWrite_isOpen (l : Transport) (b : Byte) (a : WriteAnswer) :
    (l.afterWrite b a).isOpen = l.isOpen := by
  unfold Transport.afterWrite
  split <;> rfl

/-- One framer step that writes (R33, R83): the byte goes out and the step's registers land, or the frame
ends TRANSPORT_FAILURE and nothing goes out. -/
theorem sendByte_cases (s : State) (a : WriteAnswer) (b : Byte) (r : TxRegs) :
    (a = .ok ∧ s.link.isOpen = true ∧
      s.sendByte a b r =
        { s with
          tx := r
          link := { s.link with sink := s.link.sink ++ [b], txLog := s.link.txLog ++ [⟨b, .ok⟩] } }) ∨
    ((a = .error ∨ s.link.isOpen = false) ∧
      s.sendByte a b r =
        { s with
          tx := s.tx.finish .transportFailure
          link := { s.link with txLog := s.link.txLog ++ [⟨b, .error⟩] } }) := by
  obtain ⟨tx, rx, ⟨pb, duty, line, sink, isOpen, avail, rxLog, txLog⟩, cfg, ports, tape, n⟩ := s
  cases isOpen <;> cases a <;> simp [State.sendByte, Transport.afterWrite, Transport.writeAnswer]

/-- One deframer step that reads (R33, R99): a byte leaves the stream and the step's registers land, or the
frame fails TRANSPORT_FAILURE in the step's state and nothing leaves the stream. -/
theorem receiveByte_cases (s : State) (d : Draw) (g : Byte → RxRegs) :
    (∃ b rest, s.link.isOpen = true ∧ s.link.readAnswer d = .byte b ∧ s.link.unread = b :: rest ∧
      s.receiveByte d g =
        { s with
          rx := g b
          link :=
            { s.link with
              pushback := none
              duty := false
              line := rest
              rxLog := s.link.rxLog ++ [.read s.rx.tmo (.byte b)] } }) ∨
    (∃ a, (a = .timeout ∨ a = .error) ∧ s.link.readAnswer d = a ∧
      s.receiveByte d g =
        { s with
          rx := s.rx.raise .transportFailure s.rx.state
          link := { s.link with duty := false, rxLog := s.link.rxLog ++ [.read s.rx.tmo a] } }) := by
  rcases afterRead_cases s.link s.rx.tmo d with ⟨b, rest, ho, ha, hu, he⟩ | ⟨ha, he⟩ | ⟨ha, he⟩
  · exact .inl ⟨b, rest, ho, ha, hu, by simp [State.receiveByte, State.afterRead, ha, he]⟩
  · exact .inr ⟨.timeout, .inl rfl, ha, by simp [State.receiveByte, State.afterRead, ha, he]⟩
  · exact .inr ⟨.error, .inr rfl, ha, by simp [State.receiveByte, State.afterRead, ha, he]⟩

@[simp] theorem Fetched.outcome_run (i : Instr) (s : State) : (Fetched.run i s).outcome = exec i s := rfl

@[simp] theorem Fetched.outcome_did (o : Host.Outcome State Fault Refusal) :
    (Fetched.did o).outcome = o := rfl

/-- With no move to come the machine stands still. -/
theorem step_nil (s : State) (h : s.tape = []) : step s = .next s := by simp [step, fetch, h]

/-- A step is the next move, made in the state whose tape has it no more. -/
theorem step_cons (s : State) (i : Input) (rest : List Input) (h : s.tape = i :: rest) :
    step s = (fetchInput i { s with tape := rest }).outcome := by
  simp [step, fetch, h]

theorem step_offer (s : State) (o : Offer) (rest : List Input) (h : s.tape = .offer o :: rest) :
    step s = .next { s with tape := rest, ports := s.ports.place o } := by
  simp [step_cons s _ _ h, fetchInput]

theorem step_framer (s : State) (a : WriteAnswer) (rest : List Input) (h : s.tape = .framer a :: rest)
    (hr : s.cfg.rst = false) : step s = txStep a { s with tape := rest } := by
  simp [step_cons s _ _ h, fetchInput, hr]

theorem step_deframer (s : State) (d : Draw) (rest : List Input) (h : s.tape = .deframer d :: rest)
    (hr : s.cfg.rst = false) (ht : s.rx.state ≠ .type) : step s = rxStep d { s with tape := rest } := by
  simp [step_cons s _ _ h, fetchInput, hr, ht]

/-- The deframer's turn in RX_TYPE (R94): the header's instruction runs, or the read fails. -/
theorem step_deframer_type (s : State) (d : Draw) (rest : List Input) (h : s.tape = .deframer d :: rest)
    (hr : s.cfg.rst = false) (ht : s.rx.state = .type) :
    step s = (fetchHeader d { s with tape := rest }).outcome := by
  simp [step_cons s _ _ h, fetchInput, hr, ht]

/-- A handshake runs the decoded offer (R14, R63). -/
theorem step_host (s : State) (p : HostPort) (rest : List Input) (h : s.tape = .host p :: rest) :
    step s = (fetchOffer p { s with tape := rest }).outcome := by
  simp [step_cons s _ _ h, fetchInput]

end Sys2Proof.Machine
end

