-- ==== Sys2Proof/Laws/Step.lean ====
section
/-!
SUPPORT. What a step can do, said once: the moves of 10_state.md R13 with the state each leaves. A proof
about every step is a case analysis of `Move`.
-/
namespace Sys2Proof.Machine

/-- The registers RX_TYPE's dispatch leaves on TYPE byte `t` (R94). -/
def RxRegs.dispatch (r : RxRegs) (kind3b : Bool) (t : Byte) : RxRegs :=
  match kindFor kind3b t with
  | some k => r.dispatchKnown k
  | none => r.dispatchUnknown t

/-- `Move i s t`: the move `i`, already off the tape of `s`, leaves `t`. -/
inductive Move : Input → State → State → Prop where
  | offer (o : Offer) (s : State) : Move (.offer o) s { s with ports := s.ports.place o }
  | arrive (bs : List Byte) (s : State) :
    Move (.arrive bs) s { s with link := { s.link with line := s.link.line ++ bs } }
  | rst (level : Bool) (s : State) (h : level = true ∨ s.cfg.rst = true) :
    Move (.rst level) s { s with cfg := { s.cfg with rst := level } }.blockReset
  | rstReleased (s : State) (h : s.cfg.rst = false) : Move (.rst false) s s
  | config (k : Bool) (n : Nat) (s : State)
    (h : s.rxBusy = true → k = s.cfg.kind3b ∧ n = s.cfg.peekTimeout) :
    Move (.config k n) s { s with cfg := { s.cfg with kind3b := k, peekTimeout := n } }
  | link (b : Bool) (s : State) : Move (.link b) s { s with link := { s.link with isOpen := b } }
  | avail (b : Bool) (s : State) : Move (.avail b) s { s with link := { s.link with avail := b } }
  | waitHost (p : HostPort) (s : State) : Move (.host p) s s
  | waitFramer (a : WriteAnswer) (s : State)
    (h : s.cfg.rst = true ∨ s.tx.state = .idle ∨ s.tx.state = .done) : Move (.framer a) s s
  | waitDeframer (d : Draw) (s : State)
    (h : s.cfg.rst = true ∨ s.rx.state = .idle ∨ s.rx.state = .done ∨ s.rx.state = .failed) :
    Move (.deframer d) s s
  | encode (s : State) (r : TxCmdRecord) (rest : List TxCmdRecord) (hc : s.ports.txCmd = r :: rest)
    (hl : r.payload.length = r.len.toNat) (hi : s.tx.state = .idle) (hr : s.cfg.rst = false) :
    Move (.host .txCmd) s
      { s with
        tx := s.tx.accept r.wireType r.hasChecksum r.payload
        ports := { s.ports with txCmd := rest } }
  | txdone (s : State) (v : Nat) (rest : List Nat) (hc : s.ports.txDone = v :: rest)
    (hi : s.tx.state = .done) :
    Move (.host .txDone) s
      { s with
        tx := s.tx.toIdle
        ports :=
          { s.ports with txDone := rest, vars := writeVar v (.txDone s.tx.status) s.ports.vars } }
  | decode (s : State) (n : Timeout) (rest : List Timeout) (hc : s.ports.rxCmd = n :: rest)
    (hi : s.rx.state = .idle) (hr : s.cfg.rst = false) :
    Move (.host .rxCmd) s
      { s with
        rx := { s.rx with tmo := n, acc := 0, idx := 0, state := .sync1 }
        ports := { s.ports with rxCmd := rest } }
  | rxres (s : State) (v : Nat) (rest : List Nat) (hc : s.ports.rxRes = v :: rest)
    (hi : s.rx.state = .done ∨ s.rx.state = .failed) :
    Move (.host .rxRes) s
      { s with
        rx := s.rx.toIdle
        ports :=
          { s.ports with rxRes := rest, vars := writeVar v (.rxRes s.rx.record) s.ports.vars } }
  | txSync1 (a : WriteAnswer) (s : State) (h : s.tx.state = .sync1) (hr : s.cfg.rst = false) :
    Move (.framer a) s (s.sendByte a 0xAA { s.tx with state := .sync2 })
  | txSync2 (a : WriteAnswer) (s : State) (h : s.tx.state = .sync2) (hr : s.cfg.rst = false) :
    Move (.framer a) s (s.sendByte a 0x55 { s.tx with state := .type })
  | txType (a : WriteAnswer) (s : State) (h : s.tx.state = .type) (hr : s.cfg.rst = false) :
    Move (.framer a) s
      (s.sendByte a s.tx.wireType
        (if s.tx.len = 0 then s.tx.finish .ok else { s.tx with state := .len }))
  | txLen (a : WriteAnswer) (s : State) (h : s.tx.state = .len) (hr : s.cfg.rst = false) :
    Move (.framer a) s (s.sendByte a (lenByte s.tx.len s.tx.hc) { s.tx with state := .payload })
  | txPayload (a : WriteAnswer) (s : State) (b : Byte) (h : s.tx.state = .payload)
    (hb : Buf.read s.tx.buf s.tx.idx.toNat = some b) (hr : s.cfg.rst = false) :
    Move (.framer a) s (s.sendByte a b (s.tx.afterPayloadByte b))
  | txCk (a : WriteAnswer) (s : State) (h : s.tx.state = .ck) (hr : s.cfg.rst = false) :
    Move (.framer a) s (s.sendByte a s.tx.acc (s.tx.finish .ok))
  | readFailed (d : Draw) (s : State) (a : ReadAnswer) (h : s.rx.state.reads = true)
    (ha : s.link.readAnswer d = a) (hn : a = .timeout ∨ a = .error) (hr : s.cfg.rst = false) :
    Move (.deframer d) s
      { s with
        rx := s.rx.raise .transportFailure s.rx.state
        link := { s.link with duty := false, rxLog := s.link.rxLog ++ [.read s.rx.tmo a] } }
  | readByte (d : Draw) (s : State) (b : Byte) (line : List Byte) (r : RxRegs)
    (h : s.rx.state.reads = true) (ho : s.link.isOpen = true) (ha : s.link.readAnswer d = .byte b)
    (hu : s.link.unread = b :: line) (hr : s.cfg.rst = false)
    (hrx :
      (s.rx.state = .sync1 ∧
        r = if b = 0xAA then { s.rx with state := .sync2 } else s.rx.raise .resync .sync1) ∨
      (s.rx.state = .sync2 ∧
        r = if b = 0x55 then { s.rx with state := .type } else s.rx.raise .resync .sync2) ∨
      (s.rx.state = .type ∧ r = s.rx.dispatch s.cfg.kind3b b) ∨
      (s.rx.state = .len ∧ r = s.rx.afterLenByte b) ∨
      (s.rx.state = .payload ∧
        ∃ buf, Buf.write s.rx.buf s.rx.idx.toNat b = some buf ∧ r = s.rx.afterPayloadByte b buf) ∨
      (s.rx.state = .ck ∧ r = s.rx.afterCkByte b)) :
    Move (.deframer d) s
      { s with
        rx := r
        link :=
          { s.link with
            pushback := none
            duty := false
            line := line
            rxLog := s.link.rxLog ++ [.read s.rx.tmo (.byte b)] } }
  | probe (d : Draw) (s : State) (h : s.rx.state = .probe) (hr : s.cfg.rst = false) :
    Move (.deframer d) s (rxProbeStep d s)

/-- The frame row a header decodes to is RX_TYPE's dispatch on its third byte (R63, R94). -/
theorem exec_of_header (kind3b : Bool) (t : Byte) (s : State) (i : Instr)
    (h : decode kind3b (.header [0xAA, 0x55, t]) = .instr i) :
    exec i s = .next { s with rx := s.rx.dispatch kind3b t } := by
  rw [decode_sync_header] at h
  cases h
  simp only [RxRegs.dispatch]
  cases hk : kindFor kind3b t with
  | none => rfl
  | some k => cases k <;> rfl

/-- RX_TYPE's turn is one read with the dispatch on its byte (R94, R99). -/
theorem fetchHeader_outcome (d : Draw) (s : State) :
    (fetchHeader d s).outcome = .next (s.receiveByte d (s.rx.dispatch s.cfg.kind3b)) := by
  simp only [fetchHeader]
  rcases afterRead_cases s.link s.rx.tmo d with ⟨b, rest, ho, ha, hu, he⟩ | ⟨ha, he⟩ | ⟨ha, he⟩
  · have hd := decode_sync_header s.cfg.kind3b b []
    simp only [ha, fetchEncoded, State.afterRead_cfg]
    rw [hd]
    simp only [Fetched.outcome_run]
    rw [exec_of_header s.cfg.kind3b b _ _ hd]
    simp [State.receiveByte, State.afterRead, ha]
  · simp [ha, State.receiveByte]
  · simp [ha, State.receiveByte]

/-- A read step whose byte leaves registers `g b` is one of the two reading moves. -/
theorem move_receive (d : Draw) (s : State) (g : Byte → RxRegs) (hs : s.rx.state.reads = true)
    (hr : s.cfg.rst = false)
    (hg : ∀ b, s.link.readAnswer d = .byte b →
      (s.rx.state = .sync1 ∧
        g b = if b = 0xAA then { s.rx with state := .sync2 } else s.rx.raise .resync .sync1) ∨
      (s.rx.state = .sync2 ∧
        g b = if b = 0x55 then { s.rx with state := .type } else s.rx.raise .resync .sync2) ∨
      (s.rx.state = .type ∧ g b = s.rx.dispatch s.cfg.kind3b b) ∨
      (s.rx.state = .len ∧ g b = s.rx.afterLenByte b) ∨
      (s.rx.state = .payload ∧
        ∃ buf, Buf.write s.rx.buf s.rx.idx.toNat b = some buf ∧ g b = s.rx.afterPayloadByte b buf) ∨
      (s.rx.state = .ck ∧ g b = s.rx.afterCkByte b)) :
    Move (.deframer d) s (s.receiveByte d g) := by
  rcases receiveByte_cases s d g with ⟨b, rest, ho, ha, hu, he⟩ | ⟨a, hn, ha, he⟩
  · rw [he]
    exact .readByte d s b rest _ hs ho ha hu hr (hg b ha)
  · rw [he]
    exact .readFailed d s a hs ha hn hr

theorem move_host (p : HostPort) (s t : State) (h : (fetchOffer p s).outcome = .next t) :
    Move (.host p) s t := by
  obtain ⟨tx, rx, link, cfg, ⟨c1, c2, c3, c4, vars⟩, tape, n⟩ := s
  cases p with
  | txCmd =>
    cases c1 with
    | nil => simp [fetchOffer, Ports.head?] at h; subst h; exact .waitHost _ _
    | cons r rest =>
      by_cases hl : r.payload.length = r.len.toNat
      · have hm : ¬ Config.maxPayload < r.payload.length := by
          have := r.len.isLt
          simp [Config.maxPayload]
          omega
        by_cases he : tx.state = .idle ∧ cfg.rst = false
        · simp only [fetchOffer, Ports.head?, List.head?_cons, Option.map_some, fetchEncoded,
            Sys2Proof.decode, if_pos hl, Fetched.outcome_run, exec, execEncode, if_neg hm,
            if_pos he, Host.Outcome.next.injEq] at h
          subst h
          exact .encode _ r rest rfl hl he.1 he.2
        · simp only [fetchOffer, Ports.head?, List.head?_cons, Option.map_some, fetchEncoded,
            Sys2Proof.decode, if_pos hl, Fetched.outcome_run, exec, execEncode, if_neg hm,
            if_neg he, Host.Outcome.next.injEq] at h
          subst h
          exact .waitHost _ _
      · simp [fetchOffer, Ports.head?, fetchEncoded, Sys2Proof.decode, hl] at h
  | txDone =>
    cases c2 with
    | nil => simp [fetchOffer, Ports.head?] at h; subst h; exact .waitHost _ _
    | cons v rest =>
      by_cases he : tx.state = .done
      · simp only [fetchOffer, Ports.head?, List.head?_cons, Option.map_some, fetchEncoded,
          Sys2Proof.decode, Fetched.outcome_run, exec, execTxdone, if_pos he,
          Host.Outcome.next.injEq] at h
        subst h
        exact .txdone _ v rest rfl he
      · simp only [fetchOffer, Ports.head?, List.head?_cons, Option.map_some, fetchEncoded,
          Sys2Proof.decode, Fetched.outcome_run, exec, execTxdone, if_neg he,
          Host.Outcome.next.injEq] at h
        subst h
        exact .waitHost _ _
  | rxCmd =>
    cases c3 with
    | nil => simp [fetchOffer, Ports.head?] at h; subst h; exact .waitHost _ _
    | cons v rest =>
      by_cases he : rx.state = .idle ∧ cfg.rst = false
      · simp only [fetchOffer, Ports.head?, List.head?_cons, Option.map_some, fetchEncoded,
          Sys2Proof.decode, Fetched.outcome_run, exec, execDecode, if_pos he,
          Host.Outcome.next.injEq] at h
        subst h
        exact .decode _ v rest rfl he.1 he.2
      · simp only [fetchOffer, Ports.head?, List.head?_cons, Option.map_some, fetchEncoded,
          Sys2Proof.decode, Fetched.outcome_run, exec, execDecode, if_neg he,
          Host.Outcome.next.injEq] at h
        subst h
        exact .waitHost _ _
  | rxRes =>
    cases c4 with
    | nil => simp [fetchOffer, Ports.head?] at h; subst h; exact .waitHost _ _
    | cons v rest =>
      by_cases he : rx.state = .done ∨ rx.state = .failed
      · simp only [fetchOffer, Ports.head?, List.head?_cons, Option.map_some, fetchEncoded,
          Sys2Proof.decode, Fetched.outcome_run, exec, execRxres, if_pos he,
          Host.Outcome.next.injEq] at h
        subst h
        exact .rxres _ v rest rfl he
      · simp only [fetchOffer, Ports.head?, List.head?_cons, Option.map_some, fetchEncoded,
          Sys2Proof.decode, Fetched.outcome_run, exec, execRxres, if_neg he,
          Host.Outcome.next.injEq] at h
        subst h
        exact .waitHost _ _

theorem move_framer (a : WriteAnswer) (s t : State) (hr : s.cfg.rst = false)
    (h : txStep a s = .next t) : Move (.framer a) s t := by
  unfold txStep at h
  split at h <;> rename_i hs
  case h_6 =>
    unfold txPayloadStep at h
    split at h
    · rename_i b hb
      cases h
      exact .txPayload a s b hs hb hr
    · cases h
  all_goals cases h
  · exact .waitFramer a s (.inr (.inl hs))
  · exact .txSync1 a s hs hr
  · exact .txSync2 a s hs hr
  · exact .txType a s hs hr
  · exact .txLen a s hs hr
  · exact .txCk a s hs hr
  · exact .waitFramer a s (.inr (.inr hs))

theorem move_deframer (d : Draw) (s t : State) (hr : s.cfg.rst = false) (ht : s.rx.state ≠ .type)
    (h : rxStep d s = .next t) : Move (.deframer d) s t := by
  unfold rxStep at h
  split at h <;> rename_i hs
  case h_7 =>
    unfold rxPayloadStep at h
    split at h
    · rename_i b hb
      split at h
      · rename_i buf hw
        cases h
        refine move_receive d s _ (by simp [hs, RxState.reads]) hr fun b' hb' => ?_
        rw [hb] at hb'
        cases hb'
        exact .inr (.inr (.inr (.inr (.inl ⟨hs, buf, hw, rfl⟩))))
      · cases h
    · rename_i hn
      cases h
      exact move_receive d s _ (by simp [hs, RxState.reads]) hr fun b hb => absurd hb (hn b)
  all_goals cases h
  · exact .waitDeframer d s (.inr (.inl hs))
  · exact move_receive d s _ (by simp [hs, RxState.reads]) hr fun b _ => .inl ⟨hs, rfl⟩
  · exact move_receive d s _ (by simp [hs, RxState.reads]) hr fun b _ => .inr (.inl ⟨hs, rfl⟩)
  · exact absurd hs ht
  · exact .probe d s hs hr
  · exact move_receive d s _ (by simp [hs, RxState.reads]) hr
      fun b _ => .inr (.inr (.inr (.inl ⟨hs, rfl⟩)))
  · exact move_receive d s _ (by simp [hs, RxState.reads]) hr
      fun b _ => .inr (.inr (.inr (.inr (.inr ⟨hs, rfl⟩))))
  · exact .waitDeframer d s (.inr (.inr (.inl hs)))
  · exact .waitDeframer d s (.inr (.inr (.inr hs)))

/-- One move, in the state whose tape has it no more. -/
theorem move_of_fetch (i : Input) (s t : State) (h : (fetchInput i s).outcome = .next t) :
    Move i s t := by
  cases i with
  | offer o => cases h; exact .offer o s
  | host p => exact move_host p s t h
  | framer a =>
    simp only [fetchInput] at h
    split at h
    · rename_i hr
      cases h
      exact .waitFramer a s (.inl hr)
    · rename_i hr
      exact move_framer a s t (by simpa using hr) h
  | deframer d =>
    simp only [fetchInput] at h
    split at h
    · rename_i hr
      cases h
      exact .waitDeframer d s (.inl hr)
    · rename_i hr
      split at h
      · rename_i ht
        rw [fetchHeader_outcome] at h
        cases h
        exact move_receive d s _ (by simp [ht, RxState.reads]) (by simpa using hr)
          fun b _ => .inr (.inr (.inl ⟨ht, rfl⟩))
      · rename_i ht
        exact move_deframer d s t (by simpa using hr) ht h
  | arrive bs => cases h; exact .arrive bs s
  | rst level =>
    simp only [fetchInput, Fetched.outcome_did, Host.Outcome.next.injEq, driveReset] at h
    subst h
    split
    · rename_i hl
      exact .rst level s hl
    · rename_i hl
      cases level with
      | true => exact absurd (.inl rfl) hl
      | false => exact .rstReleased s (by simpa using hl)
  | config k n =>
    simp only [fetchInput, Fetched.outcome_did, driveConfig] at h
    split at h
    · cases h
    · rename_i hc
      cases h
      exact .config k n s fun hb => Decidable.byContradiction fun hn => hc ⟨hb, hn⟩
  | link b => cases h; exact .link b s
  | avail b => cases h; exact .avail b s

/-- Everything a step that answers a next state can do. -/
theorem step_cases (s t : State) (h : step s = .next t) :
    (s.tape = [] ∧ t = s) ∨
      ∃ i rest, s.tape = i :: rest ∧ Move i { s with tape := rest } t := by
  cases ht : s.tape with
  | nil =>
    rw [step_nil s ht] at h
    cases h
    exact .inl ⟨rfl, rfl⟩
  | cons i rest =>
    rw [step_cons s i rest ht] at h
    exact .inr ⟨i, rest, rfl, move_of_fetch i _ t h⟩

end Sys2Proof.Machine
end

