-- ==== Sys2Proof/Laws/Inv.lean ====
section
/-!
SUPPORT. What each operation on an engine's registers does to the register part of the invariant of
Safety.lean, one lemma an operation (10_state.md R22, 41_framer.md R76 to R84, 42_deframer.md R91 to R101).
-/
namespace Sys2Proof.Machine

/-- A step that writes keeps the framer's registers well: they are the step's own, or a TRANSPORT_FAILURE. -/
theorem sendByte_inv (s : State) (a : WriteAnswer) (b : Byte) (r : TxRegs) (h : r.Inv) :
    (s.sendByte a b r).tx.Inv := by
  rcases sendByte_cases s a b r with ⟨_, _, he⟩ | ⟨_, he⟩ <;> rw [he]
  · exact h
  · simp [TxRegs.Inv]

/-- TX_PAYLOAD (R81): the accumulator stays the checksum of the bytes sent so far. -/
theorem TxRegs.afterPayloadByte_inv (r : TxRegs) (b : Byte) (hs : r.state = .payload) (h : r.Inv)
    (hb : Buf.read r.buf r.idx.toNat = some b) : (r.afterPayloadByte b).Inv := by
  simp only [TxRegs.Inv, hs] at h
  obtain ⟨h1, h2, h3⟩ := h
  have hlt := r.len.isLt
  have hi : (BitVec.ofNat 9 (r.idx.toNat + 1)).toNat = r.idx.toNat + 1 := by simp; omega
  have ha : r.acc - b = checksumOf (Buf.take r.buf (r.idx.toNat + 1)) := by
    rw [take_succ_of_read hb, checksumOf_append_singleton, h3]
  by_cases hl : r.idx.toNat + 1 < r.len.toNat
  · simp only [TxRegs.afterPayloadByte, if_pos hl]
    simp only [TxRegs.Inv, hs, hi, TxRegs.lenFits] at *
    exact ⟨h1, hl, ha⟩
  · have : r.idx.toNat + 1 = r.len.toNat := by omega
    simp only [TxRegs.afterPayloadByte, if_neg hl]
    split
    · simp only [TxRegs.Inv, hi, TxRegs.lenFits] at *
      refine ⟨h1, by assumption, ?_, this, by rw [ha, this]⟩
      intro h; rw [h] at h2; simp at h2
    · simp [TxRegs.Inv]

/-- ENCODE acceptance (R76). -/
theorem TxRegs.accept_inv (r : TxRegs) (wt : Byte) (hc : Bool) (p : List Byte) (n : Byte)
    (hp : p.length = n.toNat) : (r.accept wt hc p).Inv := by
  unfold TxRegs.accept
  split
  · simp [TxRegs.Inv]
  · rename_i h
    simp only [TxRegs.Inv, TxRegs.lenFits, and_true]
    rintro ⟨h1, h2⟩
    apply h
    refine ⟨h1, ?_⟩
    rw [hp] at h2 ⊢
    simp at h2
    subst h2; simp [Config.maxPayloadCk]

/-- What RXRES hands over (R60, R101). -/
theorem RxRegs.record_ok (k : Bool) (r : RxRegs) (h : r.Inv k) (hs : r.state = .done ∨ r.state = .failed) :
    recordOk (.rxRes r.record) := by
  rcases hs with hs | hs <;> simp only [RxRegs.Inv, hs] at h <;> simp [RxRegs.record, hs, recordOk]
  · obtain ⟨_, h2, _, h3, _⟩ := h
    refine ⟨?_, ?_, h2⟩
    · rcases h3 with h3 | ⟨h3, _⟩ <;> simp [h3, Status.isSuccess]
    · simp [Buf.take]; omega
  · exact h

/-- RX_TYPE's dispatch (R94). -/
theorem RxRegs.dispatch_inv (r : RxRegs) (k : Bool) (t : Byte) (h : r.idx = 0 ∧ r.acc = 0) :
    (r.dispatch k t).Inv k := by
  simp only [RxRegs.dispatch]
  cases hk : kindFor k t with
  | none => simp [RxRegs.dispatchUnknown, RxRegs.Inv, h, RxRegs.typed, hk]
  | some q =>
    have := framingFor_kindFor hk
    simp only [RxRegs.dispatchKnown, this]
    split
    · rename_i hz
      simp [RxRegs.Inv, h, RxRegs.typed, hk, RxRegs.finish, hz]
    · rename_i hz
      simp only [RxRegs.Inv, h, RxRegs.typed, hk]
      simp; exact hz

/-- Every catalog payload is shorter than a buffer. -/
theorem framingFor_size_le (q : Kind) : (framingFor q).size.toNat ≤ 254 := by cases q <;> decide

/-- RX_LEN (R96, R105). -/
theorem RxRegs.afterLenByte_inv (r : RxRegs) (k : Bool) (b : Byte) (hs : r.state = .len) (h : r.Inv k) :
    (r.afterLenByte b).Inv k := by
  simp only [RxRegs.Inv, hs] at h
  obtain ⟨h1, h2, h3, h4⟩ := h
  unfold RxRegs.afterLenByte
  split
  · rename_i q hq
    have hz : r.size.toNat ≤ 254 := by
      simp only [RxRegs.typed, hq] at h3
      rw [h3.2.2]
      exact framingFor_size_le q
    split
    · simp only [RxRegs.Inv, RxRegs.typed, hq] at *
      have : r.size ≠ 0 := h4 (by simp)
      have : r.size.toNat ≠ 0 := fun e => this (BitVec.eq_of_toNat_eq (by simpa using e))
      refine ⟨h3, hz, by simp [h1]; omega, by simp [h1, h2]⟩
    · simp [RxRegs.Inv, RxRegs.raise, failureAt]
  · rename_i hq
    split
    · simp [RxRegs.Inv, RxRegs.raise, failureAt]
    · split
      · rename_i hb
        simp only [RxRegs.Inv, RxRegs.typed, hq] at *
        subst hb
        refine ⟨h3, by simp, h3.2, by simp [h1], by simp [h2]⟩
      · simp only [RxRegs.Inv, RxRegs.typed, hq] at *
        rename_i n0 n1
        have : b.toNat ≠ 0 := fun e => n0 (BitVec.eq_of_toNat_eq (by simpa using e))
        have : b.toNat ≠ 1 := fun e => n1 (BitVec.eq_of_toNat_eq (by simpa using e))
        have hb := b.isLt
        have hsz : (b - 1).toNat = b.toNat - 1 := by bv_omega
        refine ⟨h3, by omega, by rw [h1, hsz]; simp; omega, by simp [h1, h2]⟩

/-- RX_PAYLOAD (R97): the accumulator stays the sum of the bytes received so far. -/
theorem RxRegs.afterPayloadByte_inv (r : RxRegs) (k : Bool) (b : Byte) (buf : Buf)
    (hs : r.state = .payload) (h : r.Inv k) (hw : Buf.write r.buf r.idx.toNat b = some buf) :
    (r.afterPayloadByte b buf).Inv k := by
  simp only [RxRegs.Inv, hs] at h
  obtain ⟨h1, h2, h3, h4⟩ := h
  have hi : (BitVec.ofNat 9 (r.idx.toNat + 1)).toNat = r.idx.toNat + 1 := by simp; omega
  have ha : r.acc + b = sum8 (Buf.take buf (r.idx.toNat + 1)) := by
    rw [take_succ_of_write hw, sum8_append, h4]; simp
  by_cases hl : r.idx.toNat + 1 < r.size.toNat
  · simp only [RxRegs.afterPayloadByte, if_pos hl]
    simp only [RxRegs.Inv, hs, hi, RxRegs.typed] at *
    exact ⟨h1, h2, hl, ha⟩
  · have : r.idx.toNat + 1 = r.size.toNat := by omega
    simp only [RxRegs.afterPayloadByte, if_neg hl]
    split
    · simp only [RxRegs.Inv, hi, RxRegs.typed] at *
      exact ⟨h1, h2, by assumption, this, by rw [ha, this]⟩
    · rename_i hc
      simp only [RxRegs.Inv, RxRegs.finish, hi, RxRegs.typed] at *
      exact ⟨h1, h2, this, .inl trivial, fun e => absurd e hc⟩

/-- RX_CK (R98). -/
theorem RxRegs.afterCkByte_inv (r : RxRegs) (k : Bool) (b : Byte) (hs : r.state = .ck) (h : r.Inv k) :
    (r.afterCkByte b).Inv k := by
  simp only [RxRegs.Inv, hs] at h
  obtain ⟨h1, h2, h3, h4, h5⟩ := h
  unfold RxRegs.afterCkByte
  split
  · rename_i hz
    simp only [RxRegs.Inv, RxRegs.finish, RxRegs.typed] at *
    exact ⟨h1, h2, h4, .inl trivial, fun _ => hz⟩
  · simp [RxRegs.Inv, RxRegs.raise, failureAt]

end Sys2Proof.Machine
end

