-- ==== Sys2Proof/Laws/PerInstr.lean ====
section
/-!
SUPPORT. Statements for all instructions, one lemma a constructor: the encoder puts an instruction on the
port that its row of the opcode table names (30_encoding.md R63).
-/
namespace Sys2Proof

/-- The encoding of an instruction is selected by the port of its row (R63). -/
def Laws.EncodedPort.Statement (i : Instr) : Prop := (encode i).port = i.port

theorem Laws.EncodedPort.encode (wireType : Byte) (hasChecksum : Bool) (payload : List Byte) :
    Laws.EncodedPort.Statement (.encode wireType hasChecksum payload) := rfl

theorem Laws.EncodedPort.txdone (dst : Nat) :
    Laws.EncodedPort.Statement (.txdone dst) := rfl

theorem Laws.EncodedPort.decode (timeout : Timeout) :
    Laws.EncodedPort.Statement (.decode timeout) := rfl

theorem Laws.EncodedPort.rxres (dst : Nat) :
    Laws.EncodedPort.Statement (.rxres dst) := rfl

theorem Laws.EncodedPort.frameLcdUpdate :
    Laws.EncodedPort.Statement .frameLcdUpdate := rfl

theorem Laws.EncodedPort.frameLcdUpdateResponse :
    Laws.EncodedPort.Statement .frameLcdUpdateResponse := rfl

theorem Laws.EncodedPort.frameJoyStatusRequestResponse :
    Laws.EncodedPort.Statement .frameJoyStatusRequestResponse := rfl

theorem Laws.EncodedPort.frameJoyVersionRequest :
    Laws.EncodedPort.Statement .frameJoyVersionRequest := rfl

theorem Laws.EncodedPort.frameJoyStatusRequest :
    Laws.EncodedPort.Statement .frameJoyStatusRequest := rfl

theorem Laws.EncodedPort.frameJoyVersionRequestResponse :
    Laws.EncodedPort.Statement .frameJoyVersionRequestResponse := rfl

theorem Laws.EncodedPort.frameUnknown (wireType : Byte) :
    Laws.EncodedPort.Statement (.frameUnknown wireType) := rfl

end Sys2Proof
end

