-- ==== Sys2Proof/Laws/Run.lean ====
section
/-!
SUPPORT. Runs of several steps: a run is its first step and the run from there, and two runs one after the
other are one.
-/
namespace Sys2Proof.Machine

theorem run_zero (s : State) : Sys2Proof.core.run 0 s = .next s := rfl

/-- A run of `k + 1` steps whose first step answers a next state. -/
theorem run_succ (s m : State) (k : Nat) (h : step s = .next m) :
    Sys2Proof.core.run (k + 1) s = Sys2Proof.core.run k m := by
  have e : Sys2Proof.core.step = step := rfl
  simp only [Host.Core.run, e]
  rw [h]

/-- A run that answers a next state began with a step that did. -/
theorem run_succ_inv (s t : State) (k : Nat) (h : Sys2Proof.core.run (k + 1) s = .next t) :
    ∃ m, step s = .next m ∧ Sys2Proof.core.run k m = .next t := by
  have e : Sys2Proof.core.step = step := rfl
  simp only [Host.Core.run, e] at h
  cases hs : step s with
  | next m =>
    rw [hs] at h
    exact ⟨m, rfl, h⟩
  | fault f => rw [hs] at h; cases h
  | refused r => rw [hs] at h; cases h

/-- A run of `j + k` steps whose first `j` steps answer a next state. -/
theorem run_add (j k : Nat) : ∀ s m : State, Sys2Proof.core.run j s = .next m →
    Sys2Proof.core.run (j + k) s = Sys2Proof.core.run k m := by
  induction j with
  | zero =>
    intro s m h
    cases h
    rw [Nat.zero_add]
  | succ j ih =>
    intro s m h
    obtain ⟨x, hx, hr⟩ := run_succ_inv s m j h
    rw [show j + 1 + k = (j + k) + 1 by omega, run_succ s x _ hx]
    exact ih x m hr

end Sys2Proof.Machine
end

