-- ==== Sys2Proof/Tests/Slice0.lean ====
section
/-!
SUPPORT. Tests: the refusals of WellFormed, words written out from the spec's encodings, one step of each
instruction (expected results from the rules' examples and 95_test_vectors.md), and for every statement with
hypotheses a witness that meets them.
-/
namespace Sys2Proof.Tests
open Sys2Proof.Machine

/-- The next state of an outcome, if it is one. -/
def next? : Host.Outcome State Fault Refusal → Option State
  | .next s => some s
  | .fault _ => none
  | .refused _ => none

/-- What is fetched to run, if a move fetches an instruction. -/
def instrOf : Fetched → Option Instr
  | .run i _ => some i
  | .did _ => none

/-- The deframer in one state, with bytes waiting on an open link and its turn next. -/
def rxAt (st : RxState) (bytes : List Byte) (d : Draw) : State :=
  { State.reset with
    rx := { RxRegs.reset with state := st, tmo := 100 }
    link := { Transport.reset with line := bytes }
    tape := [.deframer d] }

/-- The framer in one state with one payload byte 05 latched (R76's example), and its turn next. -/
def txAt (st : TxState) (a : WriteAnswer) : State :=
  { State.reset with
    tx := { TxRegs.reset with
      state := st, wireType := 0x16, hc := true, len := 1, buf := Buf.load Buf.zeros [0x05] }
    tape := [.framer a] }

/-- A host handshake next on the tape, with what is offered. -/
def hostAt (p : HostPort) (ports : Ports) : State := { State.reset with ports := ports, tape := [.host p] }

/-! ### WellFormed -/

theorem test_wellFormed_encode_255 : Instr.wellFormed (.encode 0x42 false (List.replicate 255 0)) = true := by
  decide +kernel

theorem test_wellFormed_encode_256 : Instr.wellFormed (.encode 0x42 false (List.replicate 256 0)) = false := by
  decide +kernel

/-- A timeout has TIMEOUT_W bits by its type: no DECODE carries a wider one, and none latches one (R57, R119). -/
theorem test_decode_timeout_width (t : Timeout) :
    Instr.wellFormed (.decode t) = true ∧ t.toNat < 2 ^ Config.timeoutW := ⟨rfl, t.isLt⟩

theorem test_wellFormed_unknown : Instr.wellFormed (.frameUnknown 0x42) = true := by decide

theorem test_wellFormed_unknown_catalog :
    ∀ t ∈ ([0x16, 0x1E, 0x39, 0x3A, 0x3B] : List Byte), Instr.wellFormed (.frameUnknown t) = false := by
  decide

theorem test_appliesUnder :
    Instr.appliesUnder true .frameJoyStatusRequest = false ∧
      Instr.appliesUnder false .frameJoyVersionRequestResponse = false := by decide

/-! ### Words written out -/

theorem test_decode_word_encode :
    decode false (.host (.txCmd ⟨0b00010110, true, 1, [0x05]⟩)) = .instr (.encode 0x16 true [0x05]) := by
  decide

theorem test_decode_word_txdone : decode false (.host (.txDone 3)) = .instr (.txdone 3) := by decide

theorem test_decode_word_decode : decode false (.host (.rxCmd 100)) = .instr (.decode 100) := rfl

theorem test_decode_word_rxres : decode false (.host (.rxRes 7)) = .instr (.rxres 7) := by decide

theorem test_decode_word_frameLcdUpdate :
    decodeTableWord 24 0b101010100101010100011110 = some .frameLcdUpdate := by decide

theorem test_decode_word_frameLcdUpdateResponse :
    decodeTableWord 24 0b101010100101010100010110 = some .frameLcdUpdateResponse := by decide

theorem test_decode_word_frameJoyStatusRequestResponse :
    decodeTableWord 24 0b101010100101010100111001 = some .frameJoyStatusRequestResponse := by decide

theorem test_decode_word_frameJoyVersionRequest :
    decodeTableWord 24 0b101010100101010100111010 = some .frameJoyVersionRequest := by decide

theorem test_decode_word_frameJoyStatusRequest :
    decodeTableWord 24 0b101010100101010100111011 = some .frameJoyStatusRequest := by decide

theorem test_decode_word_frameJoyVersionRequestResponse :
    decode true (.header [0b10101010, 0b01010101, 0b00111011]) =
      .instr .frameJoyVersionRequestResponse := by decide

theorem test_decode_word_frameUnknown :
    decodeTableWord 24 0b101010100101010101000010 = some (.frameUnknown 0x42) := by decide

theorem test_decode_word_rejected :
    decodeTableWord 24 0b000000000101010100011110 = none ∧
      decodeTableWord 24 0b101010101010101000011110 = none := by decide

/-- The first step after reset fetches a table word's instruction and runs it. -/
theorem test_withFetchWord_fetches :
    instrOf (fetch (State.reset.withFetchWord 24 0xAA551E)) = some .frameLcdUpdate ∧
      instrOf (fetch (State.reset.withFetchWord 24 0xAA5500)) = some (.frameUnknown 0) := by decide

theorem test_withFetchWord_runs :
    (next? (step (State.reset.withFetchWord 24 0xAA551E))).map (·.rx.size) = some 17 := by decide

/-! ### One step of each instruction -/

/-- R76's example: `ENCODE 0x16, 1, [05]`. -/
theorem test_encode_latches :
    (next? (exec (.encode 0x16 true [0x05]) State.reset)).map
      (fun t => (t.tx.state, t.tx.wireType, t.tx.hc, t.tx.len, Buf.read t.tx.buf 0)) =
      some (.sync1, 0x16, true, 1, some 0x05) := by decide +kernel

/-- R113: a checked payload of 255 bytes is refused and nothing is written. -/
theorem test_encode_refuses_255 :
    (next? (exec (.encode 0x42 true (List.replicate 255 0)) State.reset)).map
      (fun t => (t.tx.state, t.tx.status, t.link.sink)) = some (.done, .refusedLength, []) := by decide +kernel

/-- R85's example. -/
theorem test_txdone_hands_over :
    (next? (exec (.txdone 2) (txAt .done .ok))).map
      (fun t => (t.tx.state, readVar t.ports.vars 2)) = some (.idle, some (.txDone .ok)) := by decide

/-- R91's example: `DECODE 100`. -/
theorem test_decode_latches :
    (next? (exec (.decode 100) State.reset)).map (fun t => (t.rx.state, t.rx.tmo)) =
      some (.sync1, 100) := rfl

/-- R101's example: the record of `AA 55 16 02 05 FB`. -/
theorem test_rxres_hands_over :
    (next? (exec (.rxres 0)
      { State.reset with
        rx := { RxRegs.reset with
          state := .done, wireType := 0x16, kind := .known .lcdUpdateResponse, hc := true, size := 1,
          buf := Buf.load Buf.zeros [0x05] } })).map (fun t => (t.rx.state, readVar t.ports.vars 0)) =
      some (.idle, some (.rxRes (.packet .ok (.known .lcdUpdateResponse) 0x16 true 1 [0x05]))) := by
  decide +kernel

/-- R101: a failure hands over status and phase only. -/
theorem test_rxres_failure :
    (next? (exec (.rxres 0)
      { State.reset with
        rx := { RxRegs.reset with state := .failed, status := .resync, phase := .sync1 } })).map
      (fun t => readVar t.ports.vars 0) = some (some (.rxRes (.failure .resync .sync1))) := by decide

theorem test_frameLcdUpdate :
    (next? (exec .frameLcdUpdate (rxAt .type [] .prompt))).map
      (fun t => (t.rx.state, t.rx.size, t.rx.hc)) = some (.len, 17, true) := by decide

theorem test_frameLcdUpdateResponse :
    (next? (exec .frameLcdUpdateResponse (rxAt .type [] .prompt))).map
      (fun t => (t.rx.state, t.rx.size, t.rx.hc)) = some (.len, 1, true) := by decide

theorem test_frameJoyStatusRequestResponse :
    (next? (exec .frameJoyStatusRequestResponse (rxAt .type [] .prompt))).map
      (fun t => (t.rx.state, t.rx.size, t.rx.hc)) = some (.len, 9, true) := by decide

/-- R94's example: `AA 55 3A` finishes OK with `Packet(0x3A, [], 0)`. -/
theorem test_frameJoyVersionRequest :
    (next? (exec .frameJoyVersionRequest (rxAt .type [] .prompt))).map (fun t => t.rx.record) =
      some (.packet .ok (.known .joyVersionRequest) 0x3A false 0 []) := by decide

/-- R104: `AA 55 3B` under cfg_kind_3b = 0 is `Packet(0x3B, [], 1)`. -/
theorem test_frameJoyStatusRequest :
    (next? (exec .frameJoyStatusRequest (rxAt .type [] .prompt))).map (fun t => t.rx.record) =
      some (.packet .ok (.known .joyStatusRequest) 0x3B true 0 []) := by decide

theorem test_frameJoyVersionRequestResponse :
    (next? (exec .frameJoyVersionRequestResponse (rxAt .type [] .prompt))).map
      (fun t => (t.rx.state, t.rx.size, t.rx.hc)) = some (.len, 2, false) := by decide

theorem test_frameUnknown :
    (next? (exec (.frameUnknown 0x42) (rxAt .type [] .prompt))).map
      (fun t => (t.rx.state, t.rx.kind, t.rx.wireType)) = some (.probe, .unknown, 0x42) := by decide

/-! ### One step of each engine state -/

/-- R77's example: the sink gains `AA`. -/
theorem test_tx_sync1 :
    (next? (step (txAt .sync1 .ok))).map (fun t => (t.tx.state, t.link.sink)) =
      some (.sync2, [0xAA]) := by decide

/-- R80's example: LcdUpdateResponse writes LEN 02. -/
theorem test_tx_len :
    (next? (step (txAt .len .ok))).map (fun t => (t.tx.state, t.link.sink)) =
      some (.payload, [0x02]) := by decide

/-- R81's example: payload [05] sets tx_acc = FB and goes to TX_CK. -/
theorem test_tx_payload :
    (next? (step (txAt .payload .ok))).map (fun t => (t.tx.state, t.tx.acc, t.link.sink)) =
      some (.ck, 0xFB, [0x05]) := by decide +kernel

/-- R83: a failed write ends the frame, the sink gains nothing. -/
theorem test_tx_write_error :
    (next? (step (txAt .sync2 .error))).map (fun t => (t.tx.state, t.tx.status, t.link.sink)) =
      some (.done, .transportFailure, []) := by decide

/-- R92's example: stream `00 AA 55` gives RESYNC at RX_SYNC1 with `AA 55` left. -/
theorem test_rx_sync1_resync :
    (next? (step (rxAt .sync1 [0x00, 0xAA, 0x55] .prompt))).map (fun t => (t.rx.record, t.link.line)) =
      some (.failure .resync .sync1, [0xAA, 0x55]) := by decide

/-- R94's example, the third read. -/
theorem test_rx_type_version_request :
    (next? (step (rxAt .type [0x3A, 0x77] .prompt))).map (fun t => (t.rx.record, t.link.line)) =
      some (.packet .ok (.known .joyVersionRequest) 0x3A false 0 [], [0x77]) := by decide

/-- R95's example: nothing after `AA 55 42`. -/
theorem test_rx_probe_nothing :
    (next? (step (rxAt .probe [] .prompt))).map (fun t => (t.rx.state, t.rx.status, t.rx.size)) =
      some (.done, .okUnknownNoLen, 0) := by decide

/-- R30, R32: the probe holds the byte it saw in the pushback slot. -/
theorem test_rx_probe_some :
    (next? (step (rxAt .probe [0x04, 0x01] .prompt))).map
      (fun t => (t.rx.state, t.link.pushback, t.link.unread)) =
      some (.len, some 0x04, [0x04, 0x01]) := by decide

/-- R96's example: LcdUpdate with LEN 0x11 raises LENGTH_MISMATCH. -/
theorem test_rx_len_mismatch :
    (next? (step
      { rxAt .len [0x11] .prompt with
        rx := { RxRegs.reset with state := .len, kind := .known .lcdUpdate, hc := true, size := 17 } })).map
      (fun t => t.rx.record) = some (.failure .lengthMismatch .len) := by decide

/-- R98's example: 05 + FA is not 0. -/
theorem test_rx_ck_mismatch :
    (next? (step
      { rxAt .ck [0xFA] .prompt with
        rx := { RxRegs.reset with state := .ck, hc := true, size := 1, acc := 0x05 } })).map
      (fun t => t.rx.record) = some (.failure .checksumMismatch .ck) := by decide

/-- R98's example: 05 + FB is 0. -/
theorem test_rx_ck_ok :
    (next? (step
      { rxAt .ck [0xFB] .prompt with
        rx := { RxRegs.reset with state := .ck, hc := true, size := 1, acc := 0x05 } })).map
      (fun t => (t.rx.state, t.rx.status)) = some (.done, .ok) := by decide

/-- V-L1-1: the frame of the LcdUpdateResponse, and of a zero-payload Packet. -/
theorem test_frameOf :
    frameOf ⟨0x16, [0x05], true⟩ = [0xAA, 0x55, 0x16, 0x02, 0x05, 0xFB] ∧
      frameOf ⟨0x3B, [], true⟩ = [0xAA, 0x55, 0x3B] ∧
      frameOf ⟨0x3B, [0x01, 0x02], false⟩ = [0xAA, 0x55, 0x3B, 0x02, 0x01, 0x02] := by decide

/-- V-L1-1, V-L1-5: the reference decode of the same frame, and of a flipped payload bit. -/
theorem test_decodeStream :
    decodeStream false [0xAA, 0x55, 0x16, 0x02, 0x05, 0xFB] =
      (.packet .ok (.known .lcdUpdateResponse) 0x16 true 1 [0x05], 6) ∧
    decodeStream false [0xAA, 0x55, 0x16, 0x02, 0x04, 0xFB] = (.failure .checksumMismatch .ck, 6) := by
  decide

/-! ### Witnesses of the statements' hypotheses, each named after its statement -/

theorem test_witness_StatusFlagsGateThePorts :
    (txAt .done .ok).txBusy = true ∧ (List.replicate 255 (0 : Byte)).length ≤ 255 ∧
      (txAt .ck .ok).txDoneValid = false ∧ (rxAt .failed [] .prompt).rxBusy = true ∧
      (rxAt .ck [] .prompt).rxResValid = false := by decide +kernel

theorem test_witness_KindForIsTheReverseLookup :
    (0x3C : Byte) ≠ 0x1E ∧ (0x3C : Byte) ≠ 0x16 ∧ (0x3C : Byte) ≠ 0x39 ∧ (0x3C : Byte) ≠ 0x3A ∧
      (0x3C : Byte) ≠ 0x3B := by decide

theorem test_witness_DecodeOfEncodeIsTheInstruction :
    Instr.wellFormed (.encode 0xFF true (List.replicate 255 0xFF)) = true ∧
      Instr.appliesUnder true (.encode 0xFF true (List.replicate 255 0xFF)) = true ∧
      Instr.wellFormed (.frameUnknown 0xFF) = true ∧
      Instr.appliesUnder false .frameJoyStatusRequest = true ∧
      Instr.appliesUnder true .frameJoyVersionRequestResponse = true := by decide +kernel

theorem test_witness_EncodeOfDecodedIsWhatWasRead :
    decode false (.header [0xAA, 0x55, 0xFF, 0x01]) = .instr (.frameUnknown 0xFF) ∧
      decode true (.host (.txCmd ⟨0, false, 255, List.replicate 255 0⟩)) =
        .instr (.encode 0 false (List.replicate 255 0)) := by decide +kernel

theorem test_witness_HeadersAreRejectedByTheirSyncBytes :
    (0xAB : Byte) ≠ 0xAA ∧ (0xAA : Byte) = 0xAA ∧ (0xAA : Byte) ≠ 0x55 ∧ (0x55 : Byte) = 0x55 := by decide

theorem test_witness_StepRunsTheHeaderInstruction :
    (rxAt .type [0x1E] .prompt).tape = .deframer .prompt :: [] ∧
      (rxAt .type [0x1E] .prompt).cfg.rst = false ∧ (rxAt .type [0x1E] .prompt).rx.state = .type ∧
      (rxAt .type [0x1E] .prompt).link.readAnswer .prompt = .byte 0x1E ∧
      decode (rxAt .type [0x1E] .prompt).cfg.kind3b (.header [0xAA, 0x55, 0x1E]) =
        .instr .frameLcdUpdate := by decide

/-- One offer on each port. -/
def offered : Ports :=
  { txCmd := [⟨0x16, true, 1, [0x05]⟩], txDone := [4], rxCmd := [100], rxRes := [5], vars := [] }

theorem test_witness_StepRunsTheOfferedInstruction :
    (hostAt .txCmd offered).tape = .host .txCmd :: [] ∧
      (hostAt .txCmd offered).ports.head? .txCmd = some (.txCmd ⟨0x16, true, 1, [0x05]⟩) ∧
      decode false (.host (.txCmd ⟨0x16, true, 1, [0x05]⟩)) = .instr (.encode 0x16 true [0x05]) ∧
      (hostAt .rxRes offered).ports.head? .rxRes = some (.rxRes 5) := by decide

theorem test_witness_EncodeAcceptsRefusesOrWaits :
    (List.replicate 255 (0 : Byte)).length ≤ 255 ∧ State.reset.tx.state = .idle ∧
      State.reset.cfg.rst = false ∧
      ¬(true = true ∧ (List.replicate 254 (0 : Byte)).length = 255) ∧
      ¬(false = true ∧ (List.replicate 255 (0 : Byte)).length = 255) ∧
      (List.replicate 255 (0 : Byte)).length = 255 ∧ (txAt .sync1 .ok).tx.state ≠ .idle := by decide +kernel

theorem test_witness_TxdoneHandsOverTheStatus :
    (txAt .done .ok).tx.state = .done ∧ (txAt .ck .ok).tx.state ≠ .done := by decide

theorem test_witness_DecodeStartsAFrame :
    State.reset.rx.state = .idle ∧ State.reset.cfg.rst = false ∧
      (rxAt .done [] .prompt).rx.state ≠ .idle := by decide

theorem test_witness_RxresHandsOverTheRecord :
    (rxAt .done [] .prompt).rx.state = .done ∧ (rxAt .failed [] .prompt).rx.state = .failed ∧
      (rxAt .ck [] .prompt).rx.state ≠ .done ∧ (rxAt .ck [] .prompt).rx.state ≠ .failed := by decide

theorem test_witness_TypeStepDispatchesByTheCatalog :
    (rxAt .type [0x42] .prompt).tape = .deframer .prompt :: [] ∧
      (rxAt .type [0x42] .prompt).cfg.rst = false ∧ (rxAt .type [0x42] .prompt).rx.state = .type := by
  decide

theorem test_witness_FramerStepsFollowTheirRules :
    (txAt .payload .ok).cfg.rst = false ∧ (txAt .payload .ok).link.isOpen = true ∧
      (txAt .payload .ok).tape = .framer .ok :: [] ∧ (txAt .payload .ok).tx.state = .payload ∧
      Buf.read (txAt .payload .ok).tx.buf (txAt .payload .ok).tx.idx.toNat = some 0x05 ∧
      (txAt .payload .ok).tx.idx.toNat < (txAt .payload .ok).tx.len.toNat ∧
      ¬((txAt .payload .ok).tx.hc = true ∧ (txAt .payload .ok).tx.len = 255) := by decide +kernel

theorem test_witness_FramerStepsFollowTheirRules_states :
    (txAt .sync1 .ok).tx.state = .sync1 ∧ (txAt .sync2 .ok).tx.state = .sync2 ∧
      (txAt .type .ok).tx.state = .type ∧ (txAt .len .ok).tx.state = .len ∧
      (txAt .ck .ok).tx.state = .ck ∧ (txAt .ck .error).tape = .framer .error :: [] := by decide

theorem test_witness_SyncStepsCheckTheirByte :
    (rxAt .sync1 [0xAA] .prompt).tape = .deframer .prompt :: [] ∧
      (rxAt .sync1 [0xAA] .prompt).cfg.rst = false ∧
      (rxAt .sync1 [0xAA] .prompt).link.readAnswer .prompt = .byte 0xAA ∧
      (rxAt .sync2 [0x55] .prompt).rx.state = .sync2 ∧
      (rxAt .sync1 [] .prompt).link.readAnswer .prompt = .timeout ∧
      (rxAt .sync1 [] .error).link.readAnswer .error = .error := by decide

theorem test_witness_ProbeDecidesByTheAnswer :
    (rxAt .probe [0xAA] .prompt).tape = .deframer .prompt :: [] ∧
      (rxAt .probe [0xAA] .prompt).cfg.rst = false ∧ (rxAt .probe [0xAA] .prompt).rx.state = .probe ∧
      (rxAt .probe [0xAA] .prompt).link.peekAnswer .prompt = .ready 0xAA ∧
      (rxAt .probe [] .prompt).link.peekAnswer .prompt = .nothing ∧
      (rxAt .probe [] .error).link.peekAnswer .error = .error := by decide

/-- RX_LEN of an unknown type. -/
def lenUnknown (bytes : List Byte) : State :=
  { rxAt .len bytes .prompt with rx := { RxRegs.reset with state := .len, kind := .unknown, hc := true } }

theorem test_witness_LenStepChecksTheLength :
    (rxAt .len [0x12] .prompt).tape = .deframer .prompt :: [] ∧
      (rxAt .len [0x12] .prompt).cfg.rst = false ∧ (rxAt .len [0x12] .prompt).rx.state = .len ∧
      (rxAt .len [0x12] .prompt).link.readAnswer .prompt = .byte 0x12 ∧
      (rxAt .len [0x12] .prompt).rx.kind ≠ .unknown ∧
      (lenUnknown [0x00]).rx.kind = .unknown ∧ (lenUnknown [0x00]).rx.state = .len ∧
      (lenUnknown [0x00]).link.readAnswer .prompt = .byte 0x00 ∧
      (lenUnknown [0x01]).link.readAnswer .prompt = .byte 0x01 ∧
      (rxAt .len [] .prompt).link.readAnswer .prompt = .timeout := by decide

/-- The last payload byte of the longest payload. -/
def lastByte (bytes : List Byte) : State :=
  { rxAt .payload bytes .prompt with rx := { RxRegs.reset with state := .payload, size := 254, idx := 253 } }

theorem test_witness_PayloadStepStoresTheByte :
    (lastByte [0x05]).tape = .deframer .prompt :: [] ∧ (lastByte [0x05]).cfg.rst = false ∧
      (lastByte [0x05]).rx.state = .payload ∧
      (lastByte [0x05]).rx.idx.toNat < (lastByte [0x05]).rx.size.toNat ∧
      (lastByte [0x05]).link.readAnswer .prompt = .byte 0x05 ∧
      (lastByte []).link.readAnswer .prompt = .timeout ∧ (0 : Nat) ≠ (lastByte [0x05]).rx.idx.toNat := by
  decide

theorem test_witness_CkStepValidatesTheSum :
    (rxAt .ck [0x00] .prompt).tape = .deframer .prompt :: [] ∧
      (rxAt .ck [0x00] .prompt).cfg.rst = false ∧ (rxAt .ck [0x00] .prompt).rx.state = .ck ∧
      (rxAt .ck [0x00] .prompt).link.readAnswer .prompt = .byte 0x00 ∧
      (rxAt .ck [] .prompt).link.readAnswer .prompt = .timeout := by decide

/-- An answer that is no byte. -/
def noByte : ReadAnswer → Bool
  | .byte _ => false
  | .timeout => true
  | .error => true

theorem test_witness_ReadFailureRaisesTransportFailure :
    (rxAt .payload [0x05] .late).tape = .deframer .late :: [] ∧
      (rxAt .payload [0x05] .late).cfg.rst = false ∧
      (rxAt .payload [0x05] .late).rx.state.reads = true ∧
      noByte ((rxAt .payload [0x05] .late).link.readAnswer .late) = true ∧
      noByte ((rxAt .ck [0x05] .error).link.readAnswer .error) = true ∧
      (rxAt .probe [] .error).rx.state = .probe ∧
      (rxAt .probe [] .error).link.peekAnswer .error = .error ∧
      (rxAt .probe [0x01] .late).link.peekAnswer .late = .nothing := by decide

/-- A Transport that has just answered Some(42), with or without the duty of the next Read, and a Read next. -/
def peeked (duty : Bool) (d : Draw) : State :=
  { rxAt .len [0x01] d with link := { Transport.reset with pushback := some 0x42, duty := duty, line := [0x01] } }

theorem test_witness_PushbackDutyIsKept :
    (rxAt .probe [0x42] .prompt).link.peekAnswer .prompt = .ready 0x42 ∧
      (peeked true .late).link.pushback = some 0x42 ∧ (peeked true .late).link.duty = true ∧
      (next? (step (peeked true .late))).isSome = true ∧
      (next? (step { peeked true .late with tape := [.arrive [0x02]] })).isSome = true := by decide

/-- The three Reads with the byte still in the slot: due, failed, and no longer due (R32, R35 item 4). -/
theorem test_pushback_reads :
    (peeked true .late).link.readAnswer .late = .byte 0x42 ∧
      ((peeked true .late).link.afterRead 0 .error).pushback = some 0x42 ∧
      ((peeked true .late).link.afterRead 0 .error).readAnswer .late = .timeout ∧
      ((peeked true .late).link.afterRead 0 .error).readAnswer .prompt = .byte 0x42 := by decide

theorem test_witness_TheNextReadAfterAPeekAnswersItsByte :
    (peeked true .late).link.pushback = some 0x42 ∧ (peeked true .late).link.duty = true ∧
      (next? (Sys2Proof.core.run 1 (peeked true .late))).map
        (fun t => (t.link.rxLog.find? RxTransaction.isRead).isSome) = some true := by decide

theorem test_witness_TransportAnswersFollowTheStream :
    Transport.reset.isOpen = true ∧ Transport.reset.unread = [] ∧ Transport.reset.duty = false ∧
      (rxAt .sync1 [0xAA] .prompt).link.unread = 0xAA :: [] ∧
      ({ Transport.reset with isOpen := false } : Transport).isOpen = false := by decide

theorem test_witness_ChecksumLaw :
    List.replicate 254 (0xFF : Byte) ≠ [] ∧ (List.replicate 254 (0xFF : Byte)).length ≤ 254 := by decide +kernel

/-- An ENCODE handshake and `k` framer turns to come. -/
def sending (r : TxCmdRecord) (turns : List Input) : State :=
  { State.reset with
    ports := { Ports.reset with txCmd := [r] }
    tape := .host .txCmd :: turns }

theorem test_witness_FramerSendsTheFrame :
    (sending ⟨0x16, true, 1, [0x05]⟩ (okTurns 6 ++ [])).tx.state = .idle ∧
      (sending ⟨0x16, true, 1, [0x05]⟩ (okTurns 6 ++ [])).cfg.rst = false ∧
      (sending ⟨0x16, true, 1, [0x05]⟩ (okTurns 6 ++ [])).link.isOpen = true ∧
      ([0x05] : List Byte).length ≤ 255 ∧ ¬(true = true ∧ ([0x05] : List Byte).length = 255) ∧
      (sending ⟨0x16, true, 1, [0x05]⟩ (okTurns 6 ++ [])).ports.txCmd =
        ⟨0x16, true, BitVec.ofNat 8 1, [0x05]⟩ :: [] ∧
      6 ≤ (frameOf ⟨0x16, [0x05], true⟩).length ∧ 1 ≤ 6 ∧
      (sending ⟨0x16, true, 1, [0x05]⟩ (okTurns 6 ++ [])).tape = .host .txCmd :: (okTurns 6 ++ []) ∧
      (sending ⟨0x16, true, 1, [0x05]⟩ (okTurns 5 ++ .framer .error :: [])).tape =
        .host .txCmd :: (okTurns (6 - 1) ++ .framer .error :: []) := by decide

/-- A DECODE handshake and `n` deframer turns to come. -/
def receiving (bytes : List Byte) (n : Nat) : State :=
  { State.reset with
    ports := { Ports.reset with rxCmd := [100] }
    link := { Transport.reset with line := bytes }
    tape := .host .rxCmd :: (promptTurns n ++ []) }

theorem test_witness_DeframerComputesDecode :
    (receiving [0xAA, 0x55, 0x3A] 260).rx.state = .idle ∧
      (receiving [0xAA, 0x55, 0x3A] 260).cfg.rst = false ∧
      (receiving [0xAA, 0x55, 0x3A] 260).link.isOpen = true ∧
      (receiving [0xAA, 0x55, 0x3A] 260).ports.rxCmd = 100 :: [] ∧ 260 ≤ 260 ∧
      (receiving [0xAA, 0x55, 0x3A] 260).tape = .host .rxCmd :: (promptTurns 260 ++ []) := by
  refine ⟨rfl, rfl, rfl, rfl, Nat.le_refl _, rfl⟩

theorem test_witness_CompletedFrameTakesOneStepPerByte :
    (receiving [0xAA, 0x55, 0x42] 4).rx.state = .idle ∧
      (receiving [0xAA, 0x55, 0x42] 4).ports.rxCmd = 100 :: [] ∧
      decodeStream (receiving [0xAA, 0x55, 0x42] 4).cfg.kind3b (receiving [0xAA, 0x55, 0x42] 4).link.unread =
        (.packet .okUnknownNoLen .unknown 0x42 true 0 [], 3) ∧
      (receiving [0xAA, 0x55, 0x42] 4).cfg.rst = false ∧
      (receiving [0xAA, 0x55, 0x42] 4).link.isOpen = true ∧
      (receiving [0xAA, 0x55, 0x42] 4).tape = .host .rxCmd :: (promptTurns 4 ++ []) ∧
      4 ≤ 3 + (if KindId.unknown = KindId.unknown then 1 else 0) ∧
      3 < 3 + (if KindId.unknown = KindId.unknown then 1 else 0) :=
  ⟨rfl, rfl, by decide, rfl, rfl, rfl, by decide, by decide⟩

/-- The same host side and Transport, other contents of every deframer register but rx_state. -/
def otherRegisters (bytes : List Byte) (n : Nat) : State :=
  { receiving bytes n with
    rx := { RxRegs.reset with tmo := 7, wireType := 0xFF, kind := .unknown, size := 0xFF, idx := 511, acc := 1 } }

theorem test_witness_ResultsDoNotDependOnUnwrittenRegisters :
    (receiving [0xAA, 0x55, 0x3A] 260).rx.state = .idle ∧
      (receiving [0xAA, 0x55, 0x3A] 260).cfg.rst = false ∧
      (receiving [0xAA, 0x55, 0x3A] 260).link.isOpen = true ∧
      (receiving [0xAA, 0x55, 0x3A] 260).ports.rxCmd = 100 :: [] ∧ 260 ≤ 260 ∧
      (receiving [0xAA, 0x55, 0x3A] 260).tape = .host .rxCmd :: (promptTurns 260 ++ []) ∧
      (otherRegisters [0xAA, 0x55, 0x3A] 260).rx.state = .idle ∧
      (otherRegisters [0xAA, 0x55, 0x3A] 260).cfg = (receiving [0xAA, 0x55, 0x3A] 260).cfg ∧
      (otherRegisters [0xAA, 0x55, 0x3A] 260).link = (receiving [0xAA, 0x55, 0x3A] 260).link ∧
      (otherRegisters [0xAA, 0x55, 0x3A] 260).ports = (receiving [0xAA, 0x55, 0x3A] 260).ports ∧
      (otherRegisters [0xAA, 0x55, 0x3A] 260).tape = (receiving [0xAA, 0x55, 0x3A] 260).tape :=
  ⟨rfl, rfl, rfl, rfl, Nat.le_refl _, rfl, rfl, rfl, rfl, rfl, rfl⟩

theorem test_witness_ConsumedBytesPerOutcome :
    decodeStream false [0x00] = (.failure .resync .sync1, 1) ∧
      decodeStream false [0xAA, 0xAA] = (.failure .resync .sync2, 2) ∧
      decodeStream false [0xAA, 0x55, 0x3A] =
        (.packet .ok (.known .joyVersionRequest) 0x3A false 0 [], 3) ∧
      decodeStream false [0xAA, 0x55, 0x42] = (.packet .okUnknownNoLen .unknown 0x42 true 0 [], 3) ∧
      decodeStream false [0xAA, 0x55, 0x42, 0x00] = (.failure .lengthMismatch .len, 4) ∧
      decodeStream false [0xAA, 0x55, 0x42, 0x01, 0x01] = (.failure .checksumMismatch .ck, 5) ∧
      decodeStream false [0xAA, 0x55, 0x42, 0x01, 0x00] = (.packet .ok .unknown 0x42 true 0 [], 5) ∧
      decodeStream true [0xAA, 0x55, 0x3B, 0x02, 0x01, 0x02] =
        (.packet .ok (.known .joyVersionRequestResponse) 0x3B false 2 [0x01, 0x02], 6) ∧
      decodeStream false [0xAA, 0x55] = (.failure .transportFailure .type, 2) := by decide

theorem test_witness_RoundTrip :
    ([0x05] : List Byte).length = (framingFor .lcdUpdateResponse).size.toNat ∧
      kindFor false (framingFor .lcdUpdateResponse).wireType = some .lcdUpdateResponse ∧
      ([] : List Byte).length = (framingFor .joyVersionRequest).size.toNat ∧
      kindFor true (framingFor .joyVersionRequestResponse).wireType = some .joyVersionRequestResponse ∧
      kindFor false 0x42 = none ∧ 1 ≤ (List.replicate 254 (0 : Byte)).length ∧
      (List.replicate 254 (0 : Byte)).length ≤ 254 ∧ (0xAA : Byte) ≠ 0x02 ∧
      decodeStream false [0xAA, 0x55, 0x42] = (.packet .okUnknownNoLen .unknown 0x42 true 0 [], 3) := by
  decide +kernel

theorem test_witness_SingleBitErrorsAreDetected :
    ([0x05] : List Byte) ≠ [] ∧ ([0x05] : List Byte).length ≤ 254 ∧
      kindFor false 0x16 = some .lcdUpdateResponse ∧ (framingFor .lcdUpdateResponse).hc = true ∧
      (framingFor .lcdUpdateResponse).size.toNat = ([0x05] : List Byte).length ∧
      kindFor false 0x42 = none ∧ 4 ≤ 4 ∧ 5 < (frameOf ⟨0x16, [0x05], true⟩).length ∧ 7 < 8 := by decide

theorem test_witness_JoyVersionRequestTakesThreeReads :
    (receiving [0xAA, 0x55, 0x3A, 0x77] 3).rx.state = .idle ∧
      (receiving [0xAA, 0x55, 0x3A, 0x77] 3).cfg.rst = false ∧
      (receiving [0xAA, 0x55, 0x3A, 0x77] 3).link.isOpen = true ∧
      (receiving [0xAA, 0x55, 0x3A, 0x77] 3).ports.rxCmd = 100 :: [] ∧
      (receiving [0xAA, 0x55, 0x3A, 0x77] 3).link.unread = 0xAA :: 0x55 :: 0x3A :: [0x77] ∧
      (receiving [0xAA, 0x55, 0x3A, 0x77] 3).tape = .host .rxCmd :: (promptTurns 3 ++ []) :=
  ⟨rfl, rfl, rfl, rfl, rfl, rfl⟩

/-- A busy deframer whose configuration is changed. -/
def configChanged : State := { rxAt .sync1 [] .prompt with tape := [.config true 0] }

theorem test_witness_ConfigurationIsStaticWhileBusy :
    configChanged.tape = .config true 0 :: [] ∧ configChanged.rxBusy = true ∧
      ¬(true = configChanged.cfg.kind3b ∧ 0 = configChanged.cfg.peekTimeout) ∧
      State.reset.rxBusy = false ∧
      (false = configChanged.cfg.kind3b ∧ 0 = configChanged.cfg.peekTimeout) := by decide

/-- A state with a move to come that meets the invariant, and steps. -/
theorem test_witness_EveryStepKeepsTheInvariant :
    (rxAt .sync1 [0xAA] .prompt).Inv ∧ (next? (step (rxAt .sync1 [0xAA] .prompt))).isSome = true := by
  refine ⟨?_, by decide⟩
  simp [State.Inv, rxAt, State.reset, TxRegs.reset, RxRegs.reset, TxRegs.Inv, RxRegs.Inv, Ports.reset,
    Inputs.reset, Transport.reset, varsOk]

theorem test_witness_OnlyAConfigurationChangeFaults :
    configChanged.Inv ∧ step configChanged = .fault .configChangedWhileBusy := by
  refine ⟨?_, rfl⟩
  simp [State.Inv, configChanged, rxAt, State.reset, TxRegs.reset, RxRegs.reset, TxRegs.Inv,
    RxRegs.Inv, Ports.reset, Inputs.reset, Transport.reset, varsOk]

theorem test_witness_OnlyIllFormedRecordsAreRefused :
    (sending ⟨0, false, 2, [0x05]⟩ []).tape = .host .txCmd :: [] ∧
      (sending ⟨0, false, 2, [0x05]⟩ []).ports.txCmd = ⟨0, false, 2, [0x05]⟩ :: [] ∧
      ([0x05] : List Byte).length ≠ (2 : Byte).toNat ∧ 255 < (List.replicate 256 (0 : Byte)).length := by
  decide +kernel

/-- The statements about every step: a framer's, a deframer's and a remote sender's step each answer next. -/
theorem test_witness_EveryStep :
    (next? (step (txAt .sync1 .ok))).isSome = true ∧
      (next? (step (rxAt .sync1 [0xAA] .prompt))).isSome = true ∧
      (next? (step { State.reset with tape := [.arrive [0xAA]] })).isSome = true := by decide

theorem test_witness_StreamIsConsumedInOrder :
    ({ State.reset with tape := [.arrive [0xAA]] } : State).tape = .arrive [0xAA] :: [] ∧
      (next? (step (rxAt .sync1 [0xAA] .prompt))).isSome = true := by decide

theorem test_witness_LevelInputsAreDriven :
    ({ State.reset with tape := [.link false] } : State).tape = .link false :: [] ∧
      ({ State.reset with tape := [.avail true] } : State).tape = .avail true :: [] := by decide

theorem test_witness_EnginesShareNoRegister :
    (next? (step (txAt .ck .ok))).isSome = true ∧ (txAt .ck .ok).tape = .framer .ok :: [] ∧
      (next? (step (rxAt .probe [] .late))).isSome = true ∧
      (rxAt .probe [] .late).tape = .deframer .late :: [] := by decide

/-- A machine under reset, with one move to come. -/
def underReset (i : Input) : State :=
  { State.reset with cfg := { Inputs.reset with rst := true }, tape := [i] }

theorem test_witness_ResetAbandonsBothFrames :
    ({ State.reset with tape := [.rst true] } : State).tape = .rst true :: [] ∧
      ({ State.reset with tape := [.rst false] } : State).tape = .rst false :: [] ∧
      ({ State.reset with tape := [.rst false] } : State).cfg.rst = false ∧
      (underReset (.rst false)).tape = .rst false :: [] ∧ (underReset (.rst false)).cfg.rst = true ∧
      (underReset (.framer .ok)).cfg.rst = true ∧ (underReset (.framer .ok)).tape = .framer .ok :: [] ∧
      (underReset (.deframer .error)).cfg.rst = true ∧
      (underReset (.deframer .error)).tape = .deframer .error :: [] ∧
      (List.replicate 255 (0 : Byte)).length ≤ 255 := by decide +kernel

/-- A framer's result, and the host ready to take it. -/
def takeTxDone : State :=
  { txAt .done .ok with ports := { Ports.reset with txDone := [1] }, tape := [.host .txDone] }

/-- A deframer's result, and the host ready to take it. -/
def takeRxRes (st : RxState) : State :=
  { rxAt st [] .prompt with ports := { Ports.reset with rxRes := [1] }, tape := [.host .rxRes] }

theorem test_witness_OnlyAcceptanceOrResetLeavesAResult :
    takeTxDone.tx.state = .done ∧
      (next? (step takeTxDone)).map (fun t => decide (t.tx ≠ takeTxDone.tx)) = some true ∧
      (takeRxRes .failed).rx.state = .failed ∧
      (next? (step (takeRxRes .failed))).map (fun t => decide (t.rx ≠ (takeRxRes .failed).rx)) =
        some true ∧
      (takeRxRes .done).rx.state = .done ∧
      (next? (step (takeRxRes .done))).map (fun t => decide (t.rx ≠ (takeRxRes .done).rx)) =
        some true := by decide

theorem test_witness_NoMidFrameCancellation :
    (next? (step (rxAt .ck [] .prompt))).isSome = true ∧ (rxAt .ck [] .prompt).rx.state.inFrame = true ∧
      (rxAt .ck [] .prompt).tape = .deframer .prompt :: [] ∧
      (next? (step (txAt .ck .error))).isSome = true ∧ (txAt .ck .error).tx.state.sends = true ∧
      (txAt .ck .error).tape = .framer .error :: [] := by decide

/-- An offer to come, behind those already made. -/
def offering (o : Offer) : State := { State.reset with ports := offered, tape := [.offer o] }

theorem test_witness_NoCommandIsLost :
    (next? (step (hostAt .txCmd offered))).isSome = true ∧
      (next? (step (hostAt .rxCmd offered))).isSome = true ∧
      (offering (.txCmd ⟨0, false, 0, []⟩)).tape = .offer (.txCmd ⟨0, false, 0, []⟩) :: [] ∧
      (offering (.txDone 9)).tape = .offer (.txDone 9) :: [] ∧
      (offering (.rxRes 9)).tape = .offer (.rxRes 9) :: [] ∧
      (next? (step takeTxDone)).isSome = true ∧ (next? (step (takeRxRes .failed))).isSome = true := by decide

theorem test_witness_NoCommandIsLost_decode : (offering (.rxCmd 7)).tape = .offer (.rxCmd 7) :: [] := rfl

theorem test_witness_IdleEnginesHoldTheirState :
    State.reset.tape = [] ∧ (txAt .idle .ok).tape = .framer .ok :: [] ∧ (txAt .idle .ok).tx.state = .idle ∧
      (txAt .done .ok).tape = .framer .ok :: [] ∧ (txAt .done .ok).tx.state = .done ∧
      (rxAt .idle [0xAA] .prompt).tape = .deframer .prompt :: [] ∧
      (rxAt .idle [0xAA] .prompt).rx.state = .idle ∧ (rxAt .done [0xAA] .prompt).rx.state = .done ∧
      (rxAt .failed [0xAA] .error).rx.state = .failed ∧
      (hostAt .txCmd offered).tx.state = .idle ∧ (hostAt .rxCmd offered).rx.state = .idle ∧
      (next? (step (hostAt .txCmd offered))).map
        (fun t => decide (t.tx ≠ (hostAt .txCmd offered).tx)) = some true ∧
      (next? (step (hostAt .rxCmd offered))).map
        (fun t => decide (t.rx ≠ (hostAt .rxCmd offered).rx)) = some true := by decide

theorem test_witness_AcceptedRecordsStay :
    (next? (step takeTxDone)).map
      (fun t => decide (readVar t.ports.vars 1 ≠ readVar takeTxDone.ports.vars 1)) = some true ∧
    (next? (step (takeRxRes .done))).map
      (fun t => decide (readVar t.ports.vars 1 ≠ readVar (takeRxRes .done).ports.vars 1)) =
        some true := by decide

/-- A closed link. -/
def closed (s : State) : State := { s with link := { s.link with isOpen := false } }

theorem test_witness_ClosedLinkFailsEveryTransaction :
    (closed (rxAt .probe [0x01] .prompt)).link.isOpen = false ∧
      (closed (rxAt .probe [0x01] .prompt)).cfg.rst = false ∧
      (closed (rxAt .probe [0x01] .prompt)).tape = .deframer .prompt :: [] ∧
      (closed (rxAt .probe [0x01] .prompt)).rx.state.inFrame = true ∧
      (closed (txAt .payload .ok)).link.isOpen = false ∧
      (closed (txAt .payload .ok)).tape = .framer .ok :: [] ∧
      (closed (txAt .payload .ok)).tx.state.sends = true ∧
      (closed (txAt .payload .ok)).tx.idx.toNat < 256 ∧
      (closed { txAt .payload .ok with tx := { TxRegs.reset with idx := 255 } }).tx.idx.toNat < 256 := by
  decide

/-- A move that drives nothing. -/
theorem test_witness_AvailIsNeverRead :
    (∀ level rest, (rxAt .sync1 [0xAA] .prompt).tape ≠ .avail level :: rest) ∧
      (next? (step (rxAt .sync1 [0xAA] .prompt))).isSome = true ∧
      (∀ level rest, configChanged.tape ≠ .avail level :: rest) ∧
      (∀ level rest, (sending ⟨0, false, 2, []⟩ []).tape ≠ .avail level :: rest) :=
  ⟨by simp [rxAt], by decide, by simp [configChanged], by simp [sending]⟩

theorem test_witness_TimeoutBitsAreNeverRead :
    (∀ rest, (rxAt .sync1 [0xAA] .prompt).tape ≠ .host .rxCmd :: rest) ∧
      (∀ level rest, (rxAt .sync1 [0xAA] .prompt).tape ≠ .rst level :: rest) ∧
      (∀ k q rest, (rxAt .sync1 [0xAA] .prompt).tape ≠ .config k q :: rest) ∧
      (next? (step (rxAt .sync1 [0xAA] .prompt))).isSome = true :=
  ⟨by simp [rxAt], by simp [rxAt], by simp [rxAt], by decide⟩

theorem test_witness_PseudoInstructionsExpand :
    ([] : List Byte).length = (framingFor .joyStatusRequest).size.toNat ∧
      ([0x01] : List Byte).length ≠ (framingFor .joyStatusRequest).size.toNat := by decide

/-- R89's example. -/
theorem test_expandSend :
    expandSend .joyVersionRequest [] = some [.encode 0x3A false []] := by decide

theorem test_witness_InstancesAreIndependent :
    stepLink 1 [State.reset, State.reset] = .next [State.reset, State.reset] ∧
      ([State.reset, State.reset] : List State)[1]? = some State.reset ∧ (0 : Nat) ≠ 1 :=
  ⟨rfl, rfl, by decide⟩

end Sys2Proof.Tests
end

namespace Sys2Proof.Machine

/-!
### The timeouts are never read (00_scope.md R5, 10_state.md R18, 30_encoding.md R57)

Each operation is shown to commute with `State.withTimeouts`: made with other timeouts in the state, it
answers the same outcome with those timeouts in it. Only the history differs, by the requests of the deframer's
turn, which carry the timeouts (`Input.rxRequests`).
-/

/-- An outcome with its next state, if it has one, put through `f`. -/
def mapNext (f : State → State) : Host.Outcome State Fault Refusal → Host.Outcome State Fault Refusal
  | .next s => .next (f s)
  | .fault r => .fault r
  | .refused r => .refused r

@[simp] theorem mapNext_next (f : State → State) (s : State) : mapNext f (.next s) = .next (f s) := rfl

@[simp] theorem mapNext_fault (f : State → State) (r : Fault) : mapNext f (.fault r) = .fault r := rfl

@[simp] theorem mapNext_refused (f : State → State) (r : Refusal) : mapNext f (.refused r) = .refused r := rfl

/-- The deframer's registers with another rx_tmo. -/
def RxRegs.withTmo (r : RxRegs) (n : Timeout) : RxRegs := { r with tmo := n }

/-- The Transport with another history of requests. -/
def Transport.withRxLog (l : Transport) (log : List RxTransaction) : Transport := { l with rxLog := log }

/-- What the deframer's turn asks of the Transport, with the answer it gets: nothing under reset (R124) and in
the states without a step, else one Read or Peek (R33). -/
def State.turnRequests (s : State) (d : Draw) : List RxTransaction :=
  if s.cfg.rst = true then []
  else if s.rx.state.reads = true then [.read s.rx.tmo (s.link.readAnswer d)]
  else if s.rx.state = .probe then [.peek s.cfg.peekTimeout (s.link.peekAnswer d)]
  else []

/-- What a move asks of the Transport on rx_read or rx_peek: only the deframer's turn asks anything. -/
def Input.rxRequests (s : State) : Input → List RxTransaction
  | .deframer d => s.turnRequests d
  | _ => []

section Fields
variable (s : State) (n : Timeout) (m : Nat) (log : List RxTransaction)

@[simp] theorem State.withTimeouts_tx : (s.withTimeouts n m log).tx = s.tx := rfl

@[simp] theorem State.withTimeouts_rx : (s.withTimeouts n m log).rx = s.rx.withTmo n := rfl

@[simp] theorem State.withTimeouts_link : (s.withTimeouts n m log).link = s.link.withRxLog log := rfl

@[simp] theorem State.withTimeouts_ports : (s.withTimeouts n m log).ports = s.ports := rfl

@[simp] theorem State.withTimeouts_kind3b : (s.withTimeouts n m log).cfg.kind3b = s.cfg.kind3b := rfl

@[simp] theorem State.withTimeouts_rst : (s.withTimeouts n m log).cfg.rst = s.cfg.rst := rfl

@[simp] theorem State.withTimeouts_peekTimeout : (s.withTimeouts n m log).cfg.peekTimeout = m := rfl

/-- A state's own timeouts and history put into it change nothing. -/
theorem State.withTimeouts_self : s.withTimeouts s.rx.tmo s.cfg.peekTimeout s.link.rxLog = s := rfl

end Fields

/-! The Transport's answers do not depend on the history, and a transaction adds to whatever history there is. -/

section TransportAnswers
variable (l : Transport) (log : List RxTransaction)

@[simp] theorem Transport.readAnswer_withRxLog (d : Draw) :
    (l.withRxLog log).readAnswer d = l.readAnswer d := rfl

@[simp] theorem Transport.peekAnswer_withRxLog (d : Draw) :
    (l.withRxLog log).peekAnswer d = l.peekAnswer d := rfl

@[simp] theorem Transport.writeAnswer_withRxLog (a : WriteAnswer) :
    (l.withRxLog log).writeAnswer a = l.writeAnswer a := rfl

theorem Transport.afterRead_withRxLog (n t : Timeout) (d : Draw) :
    (l.withRxLog log).afterRead n d =
      (l.afterRead t d).withRxLog (log ++ [.read n (l.readAnswer d)]) := by
  simp only [Transport.afterRead, readAnswer_withRxLog]
  cases l.readAnswer d <;> rfl

theorem Transport.afterPeek_withRxLog (m t : Nat) (d : Draw) :
    (l.withRxLog log).afterPeek m d =
      (l.afterPeek t d).withRxLog (log ++ [.peek m (l.peekAnswer d)]) := by
  simp only [Transport.afterPeek, peekAnswer_withRxLog]
  cases l.peekAnswer d <;> rfl

theorem Transport.afterWrite_withRxLog (b : Byte) (a : WriteAnswer) :
    (l.withRxLog log).afterWrite b a = (l.afterWrite b a).withRxLog log := by
  simp only [Transport.afterWrite, writeAnswer_withRxLog]
  cases l.writeAnswer a <;> rfl

end TransportAnswers

/-! What the deframer does to its registers keeps rx_tmo and does not read it. -/

section Registers
variable (r : RxRegs) (n : Timeout)

@[simp] theorem RxRegs.withTmo_state : (r.withTmo n).state = r.state := rfl

theorem RxRegs.dispatch_withTmo (kind3b : Bool) (t : Byte) :
    (r.withTmo n).dispatch kind3b t = (r.dispatch kind3b t).withTmo n := by
  unfold RxRegs.dispatch
  cases kindFor kind3b t with
  | none => rfl
  | some k => cases k <;> rfl

theorem RxRegs.afterLenByte_withTmo (b : Byte) :
    (r.withTmo n).afterLenByte b = (r.afterLenByte b).withTmo n := by
  have hkind : (r.withTmo n).kind = r.kind := rfl
  have hsize : (r.withTmo n).size = r.size := rfl
  have hhc : (r.withTmo n).hc = r.hc := rfl
  simp only [RxRegs.afterLenByte, hkind, hsize, hhc]
  split <;> split_ifs <;> rfl

theorem RxRegs.afterPayloadByte_withTmo (b : Byte) (buf : Buf) :
    (r.withTmo n).afterPayloadByte b buf = (r.afterPayloadByte b buf).withTmo n := by
  simp only [RxRegs.afterPayloadByte, apply_ite (RxRegs.withTmo · n)]
  rfl

theorem RxRegs.afterCkByte_withTmo (b : Byte) :
    (r.withTmo n).afterCkByte b = (r.afterCkByte b).withTmo n := by
  simp only [RxRegs.afterCkByte, apply_ite (RxRegs.withTmo · n)]
  rfl

end Registers

section Moves
variable (s : State) (n : Timeout) (m : Nat) (log : List RxTransaction)

/-- A step of the framer that writes a byte makes no request on the receive side. -/
theorem State.sendByte_withTimeouts (a : WriteAnswer) (b : Byte) (r : TxRegs) :
    (s.withTimeouts n m log).sendByte a b r = (s.sendByte a b r).withTimeouts n m log := by
  simp only [State.sendByte, State.withTimeouts_link, Transport.afterWrite_withRxLog]
  rfl

/-- A step of the deframer that reads: the request carries rx_tmo into the history, and the byte does to the
registers what it does under any rx_tmo. -/
theorem State.receiveByte_withTimeouts (d : Draw) (g g' : Byte → RxRegs)
    (hg : ∀ b, g' b = (g b).withTmo n) :
    (s.withTimeouts n m log).receiveByte d g' =
      (s.receiveByte d g).withTimeouts n m (log ++ [.read n (s.link.readAnswer d)]) := by
  simp only [State.receiveByte, State.afterRead, State.withTimeouts_link, State.withTimeouts_rx,
    Transport.readAnswer_withRxLog, hg]
  rw [Transport.afterRead_withRxLog s.link log _ s.rx.tmo d]
  cases s.link.readAnswer d <;> rfl

theorem txPayloadStep_withTimeouts (a : WriteAnswer) :
    txPayloadStep a (s.withTimeouts n m log) =
      mapNext (·.withTimeouts n m log) (txPayloadStep a s) := by
  simp only [txPayloadStep, State.withTimeouts_tx, State.sendByte_withTimeouts]
  cases s.tx.buf.read s.tx.idx.toNat <;> rfl

theorem txStep_withTimeouts (a : WriteAnswer) :
    txStep a (s.withTimeouts n m log) = mapNext (·.withTimeouts n m log) (txStep a s) := by
  simp only [txStep, txSync1Step, txSync2Step, txTypeStep, txLenStep, txCkStep,
    txPayloadStep_withTimeouts, State.withTimeouts_tx, State.sendByte_withTimeouts]
  cases s.tx.state <;> rfl

theorem turnRequests_read (d : Draw) (hr : s.cfg.rst = false) (hs : s.rx.state.reads = true) :
    s.turnRequests d = [.read s.rx.tmo (s.link.readAnswer d)] := by
  simp [State.turnRequests, hr, hs]

theorem turnRequests_probe (d : Draw) (hr : s.cfg.rst = false) (hs : s.rx.state = .probe) :
    s.turnRequests d = [.peek s.cfg.peekTimeout (s.link.peekAnswer d)] := by
  simp [State.turnRequests, hr, hs, RxState.reads]

theorem turnRequests_eq_nil_iff (d : Draw) :
    s.turnRequests d = [] ↔
      (s.cfg.rst = true ∨ s.rx.state.reads = false ∧ s.rx.state ≠ .probe) := by
  unfold State.turnRequests
  split_ifs <;> simp_all

/-- The deframer's reading turn, with its request added to the history as `State.turnRequests` says it. -/
theorem receiveByte_withTimeouts_turn (d : Draw) (g g' : Byte → RxRegs) (hr : s.cfg.rst = false)
    (hs : s.rx.state.reads = true) (hg : ∀ b, g' b = (g b).withTmo n) :
    (s.withTimeouts n m log).receiveByte d g' =
      (s.receiveByte d g).withTimeouts n m (log ++ (s.withTimeouts n m log).turnRequests d) := by
  rw [State.receiveByte_withTimeouts s n m log d g g' hg,
    turnRequests_read (s.withTimeouts n m log) d hr hs]
  rfl

theorem rxProbeStep_withTimeouts (d : Draw) (hr : s.cfg.rst = false) (hs : s.rx.state = .probe) :
    rxProbeStep d (s.withTimeouts n m log) =
      (rxProbeStep d s).withTimeouts n m (log ++ (s.withTimeouts n m log).turnRequests d) := by
  rw [turnRequests_probe (s.withTimeouts n m log) d hr hs]
  simp only [rxProbeStep, State.withTimeouts_link, State.withTimeouts_rx,
    State.withTimeouts_peekTimeout, Transport.peekAnswer_withRxLog]
  rw [Transport.afterPeek_withRxLog s.link log m s.cfg.peekTimeout d]
  cases s.link.peekAnswer d <;> rfl

theorem rxPayloadStep_withTimeouts (d : Draw) (hr : s.cfg.rst = false)
    (hs : s.rx.state.reads = true) :
    rxPayloadStep d (s.withTimeouts n m log) =
      mapNext (·.withTimeouts n m (log ++ (s.withTimeouts n m log).turnRequests d))
        (rxPayloadStep d s) := by
  have hbuf : (s.withTimeouts n m log).rx.buf = s.rx.buf := rfl
  have hidx : (s.withTimeouts n m log).rx.idx = s.rx.idx := rfl
  simp only [rxPayloadStep, hbuf, hidx, State.withTimeouts_link, Transport.readAnswer_withRxLog]
  cases s.link.readAnswer d with
  | byte b =>
    dsimp only
    cases s.rx.buf.write s.rx.idx.toNat b with
    | none => rfl
    | some buf =>
      exact congrArg _ (receiveByte_withTimeouts_turn s n m log d _ _ hr hs
        fun b => s.rx.afterPayloadByte_withTmo n b buf)
  | timeout => exact congrArg _ (receiveByte_withTimeouts_turn s n m log d _ _ hr hs fun _ => rfl)
  | error => exact congrArg _ (receiveByte_withTimeouts_turn s n m log d _ _ hr hs fun _ => rfl)

/-- The deframer's turn in every state but RX_TYPE. -/
theorem rxStep_withTimeouts (d : Draw) (hr : s.cfg.rst = false) (ht : s.rx.state ≠ .type) :
    rxStep d (s.withTimeouts n m log) =
      mapNext (·.withTimeouts n m (log ++ (s.withTimeouts n m log).turnRequests d)) (rxStep d s) := by
  simp only [rxStep, State.withTimeouts_rx, RxRegs.withTmo_state]
  cases hs : s.rx.state with
  | sync1 =>
    exact congrArg _ (receiveByte_withTimeouts_turn s n m log d _ _ hr (by simp [hs, RxState.reads])
      fun b => (apply_ite (RxRegs.withTmo · n) (b = 0xAA) { s.rx with state := .sync2 }
        (s.rx.raise .resync .sync1)).symm)
  | sync2 =>
    exact congrArg _ (receiveByte_withTimeouts_turn s n m log d _ _ hr (by simp [hs, RxState.reads])
      fun b => (apply_ite (RxRegs.withTmo · n) (b = 0x55) { s.rx with state := .type }
        (s.rx.raise .resync .sync2)).symm)
  | type => exact absurd hs ht
  | probe => exact congrArg _ (rxProbeStep_withTimeouts s n m log d hr hs)
  | len =>
    exact congrArg _ (receiveByte_withTimeouts_turn s n m log d _ _ hr (by simp [hs, RxState.reads])
      fun b => s.rx.afterLenByte_withTmo n b)
  | payload => exact rxPayloadStep_withTimeouts s n m log d hr (by simp [hs, RxState.reads])
  | ck =>
    exact congrArg _ (receiveByte_withTimeouts_turn s n m log d _ _ hr (by simp [hs, RxState.reads])
      fun b => s.rx.afterCkByte_withTmo n b)
  | _ =>
    have hnone : (s.withTimeouts n m log).turnRequests d = [] :=
      (turnRequests_eq_nil_iff _ d).mpr (.inr (by simp [hs, RxState.reads]))
    rw [hnone, List.append_nil]
    rfl

/-- The deframer's turn in RX_TYPE. -/
theorem fetchHeader_withTimeouts (d : Draw) (hr : s.cfg.rst = false) (hs : s.rx.state = .type) :
    (fetchHeader d (s.withTimeouts n m log)).outcome =
      mapNext (·.withTimeouts n m (log ++ (s.withTimeouts n m log).turnRequests d))
        (fetchHeader d s).outcome := by
  rw [fetchHeader_outcome, fetchHeader_outcome]
  exact congrArg _ (receiveByte_withTimeouts_turn s n m log d _ _ hr (by simp [hs, RxState.reads])
    fun b => s.rx.dispatch_withTmo n s.cfg.kind3b b)

/-- What a host port's offer decodes to is an instruction of that port (R63). -/
theorem decode_host_port (kind3b : Bool) (o : Offer) (i : Instr)
    (h : decode kind3b (.host o) = .instr i) : i.port = .host o.port := by
  cases o with
  | txCmd r =>
    simp only [decode] at h
    split at h <;> cases h
    rfl
  | txDone v => cases h; rfl
  | rxCmd t => cases h; rfl
  | rxRes v => cases h; rfl

/-- The oldest offer on a port is an offer of that port. -/
theorem Ports.port_of_head? (p : Ports) (q : HostPort) (o : Offer) (h : p.head? q = some o) :
    o.port = q := by
  cases q <;>
    · obtain ⟨x, -, rfl⟩ := Option.map_eq_some_iff.mp h
      rfl

/-- Every instruction but DECODE, which writes rx_tmo, does the same under any timeouts. -/
theorem exec_withTimeouts (i : Instr) (hi : i.port ≠ .host .rxCmd) :
    exec i (s.withTimeouts n m log) = mapNext (·.withTimeouts n m log) (exec i s) := by
  cases i with
  | encode wireType hc payload =>
    simp only [exec, execEncode, apply_ite (mapNext _)]
    rfl
  | txdone dst =>
    simp only [exec, execTxdone, apply_ite (mapNext _)]
    rfl
  | decode timeout => exact absurd rfl hi
  | rxres dst =>
    simp only [exec, execRxres, apply_ite (mapNext _)]
    rfl
  | _ => rfl

/-- A handshake on a port other than rx_cmd. -/
theorem fetchOffer_withTimeouts (p : HostPort) (hp : p ≠ .rxCmd) :
    (fetchOffer p (s.withTimeouts n m log)).outcome =
      mapNext (·.withTimeouts n m log) (fetchOffer p s).outcome := by
  simp only [fetchOffer, State.withTimeouts_ports]
  cases hh : s.ports.head? p with
  | none => rfl
  | some o =>
    simp only [fetchEncoded, State.withTimeouts_kind3b]
    cases hd : decode s.cfg.kind3b (.host o) with
    | rejected r => rfl
    | instr i =>
      have hport : i.port = .host p := by
        rw [decode_host_port _ o i hd, s.ports.port_of_head? p o hh]
      exact exec_withTimeouts s n m log i (by simp [hport, hp])

/-- A move that neither accepts a DECODE nor drives rst or the configuration does the same under any
timeouts, and adds its own requests to any history. -/
theorem fetchInput_withTimeouts (i : Input) (hdecode : i ≠ .host .rxCmd)
    (hrst : ∀ level, i ≠ .rst level) (hconfig : ∀ k q, i ≠ .config k q) :
    (fetchInput i (s.withTimeouts n m log)).outcome =
      mapNext (·.withTimeouts n m (log ++ i.rxRequests (s.withTimeouts n m log)))
        (fetchInput i s).outcome := by
  cases i with
  | deframer d =>
    cases hr : s.cfg.rst with
    | true => simp [fetchInput, Input.rxRequests, State.turnRequests, hr]
    | false =>
      by_cases ht : s.rx.state = .type
      · simpa [fetchInput, Input.rxRequests, hr, ht] using fetchHeader_withTimeouts s n m log d hr ht
      · simpa [fetchInput, Input.rxRequests, hr, ht] using rxStep_withTimeouts s n m log d hr ht
  | rst level => exact absurd rfl (hrst level)
  | config k q => exact absurd rfl (hconfig k q)
  | host p =>
    simp only [Input.rxRequests, List.append_nil]
    exact fetchOffer_withTimeouts s n m log p (by simpa using hdecode)
  | framer a =>
    cases hr : s.cfg.rst with
    | true => simp [fetchInput, Input.rxRequests, hr]
    | false => simpa [fetchInput, Input.rxRequests, hr] using txStep_withTimeouts s n m log a
  | _ => simp only [Input.rxRequests, List.append_nil]; rfl

end Moves

/-- `Input.rxRequests` is what the model adds to its history. -/
theorem rxLog_of_fetchInput (s t : State) (i : Input) (hdecode : i ≠ .host .rxCmd)
    (hrst : ∀ level, i ≠ .rst level) (hconfig : ∀ k q, i ≠ .config k q)
    (h : (fetchInput i s).outcome = .next t) :
    t.link.rxLog = s.link.rxLog ++ i.rxRequests s := by
  have hself :=
    fetchInput_withTimeouts s s.rx.tmo s.cfg.peekTimeout s.link.rxLog i hdecode hrst hconfig
  rw [State.withTimeouts_self, h, mapNext_next, Host.Outcome.next.injEq] at hself
  rw [hself]
  rfl

/-- Whether a move makes a request does not depend on the timeouts. -/
theorem rxRequests_withTimeouts_eq_nil (s : State) (n : Timeout) (m : Nat) (log : List RxTransaction)
    (i : Input) (h : i.rxRequests s = []) : i.rxRequests (s.withTimeouts n m log) = [] := by
  cases i with
  | deframer d =>
    simp only [Input.rxRequests, turnRequests_eq_nil_iff] at h ⊢
    exact h
  | _ => rfl

/-- Settles O55: the next move commutes with `State.withTimeouts` (`fetchInput_withTimeouts`). -/
theorem timeoutBitsAreNeverRead : Obligations.TimeoutBitsAreNeverRead := by
  unfold Obligations.TimeoutBitsAreNeverRead
  intro s t n m log hdecode hrst hconfig hstep
  cases htape : s.tape with
  | nil =>
    rw [step_nil s htape] at hstep
    cases hstep
    exact ⟨log, step_nil _ htape, fun _ => rfl⟩
  | cons i rest =>
    rw [step_cons s i rest htape] at hstep
    have hi : i ≠ .host .rxCmd := fun h => hdecode rest (h ▸ htape)
    have hi' : ∀ level, i ≠ .rst level := fun level h => hrst level rest (h ▸ htape)
    have hi'' : ∀ k q, i ≠ .config k q := fun k q h => hconfig k q rest (h ▸ htape)
    refine ⟨log ++ i.rxRequests (State.withTimeouts { s with tape := rest } n m log), ?_, ?_⟩
    · have hmove := fetchInput_withTimeouts { s with tape := rest } n m log i hi hi' hi''
      rw [hstep, mapNext_next] at hmove
      exact (step_cons (s.withTimeouts n m log) i rest htape).trans hmove
    · intro hlog
      have hnone : i.rxRequests { s with tape := rest } = [] := by
        have hadd := rxLog_of_fetchInput _ t i hi hi' hi'' hstep
        exact List.self_eq_append_right.mp (hlog.symm.trans hadd)
      rw [rxRequests_withTimeouts_eq_nil _ n m log i hnone, List.append_nil]

end Sys2Proof.Machine

namespace Sys2Proof.Machine

/-!
### The invariant (10_state.md R22, R28; Safety.lean)

What a byte read does to the deframer's registers is said once (`RxRegs.afterByte`), and so is what a Peek's
answer does (`RxRegs.afterPeekAnswer`); each move is then shown to keep `State.Inv`.
-/

/-- What a byte read in a state that reads does to the deframer's registers (R92 to R94, R96 to R98). -/
def RxRegs.afterByte (kind3b : Bool) (r : RxRegs) (b : Byte) : RxRegs :=
  match r.state with
  | .idle => r
  | .sync1 => if b = 0xAA then { r with state := .sync2 } else r.raise .resync .sync1
  | .sync2 => if b = 0x55 then { r with state := .type } else r.raise .resync .sync2
  | .type => r.dispatch kind3b b
  | .probe => r
  | .len => r.afterLenByte b
  | .payload => r.afterPayloadByte b (r.buf.setIfInBounds r.idx.toNat b)
  | .ck => r.afterCkByte b
  | .done => r
  | .failed => r

/-- What a Peek's answer does to the deframer's registers in RX_PROBE (R95). -/
def RxRegs.afterPeekAnswer (r : RxRegs) : PeekAnswer → RxRegs
  | .nothing => { r with size := 0 }.finish .okUnknownNoLen
  | .ready _ => { r with state := .len }
  | .error => r.raise .transportFailure .probe

section AfterByte
variable (kind3b : Bool) (r : RxRegs)

theorem RxRegs.afterByte_sync1 (h : r.state = .sync1) :
    r.afterByte kind3b =
      fun b => if b = 0xAA then { r with state := .sync2 } else r.raise .resync .sync1 := by
  funext b
  simp only [RxRegs.afterByte, h]

theorem RxRegs.afterByte_sync2 (h : r.state = .sync2) :
    r.afterByte kind3b =
      fun b => if b = 0x55 then { r with state := .type } else r.raise .resync .sync2 := by
  funext b
  simp only [RxRegs.afterByte, h]

theorem RxRegs.afterByte_type (h : r.state = .type) : r.afterByte kind3b = r.dispatch kind3b := by
  funext b
  simp only [RxRegs.afterByte, h]

theorem RxRegs.afterByte_len (h : r.state = .len) : r.afterByte kind3b = r.afterLenByte := by
  funext b
  simp only [RxRegs.afterByte, h]

theorem RxRegs.afterByte_payload (h : r.state = .payload) :
    r.afterByte kind3b = fun b => r.afterPayloadByte b (r.buf.setIfInBounds r.idx.toNat b) := by
  funext b
  simp only [RxRegs.afterByte, h]

theorem RxRegs.afterByte_ck (h : r.state = .ck) : r.afterByte kind3b = r.afterCkByte := by
  funext b
  simp only [RxRegs.afterByte, h]

end AfterByte

theorem rxProbeStep_eq (d : Draw) (s : State) :
    rxProbeStep d s =
      { s with
        link := s.link.afterPeek s.cfg.peekTimeout d
        rx := s.rx.afterPeekAnswer (s.link.peekAnswer d) } := by
  unfold rxProbeStep
  cases s.link.peekAnswer d <;> rfl

/-- A write that succeeds was inside the buffer. -/
theorem write_eq_some {buf buf' : Buf} {i : Nat} {b : Byte} (h : Buf.write buf i b = some buf') :
    i < 256 ∧ buf' = buf.setIfInBounds i b := by
  unfold Buf.write at h
  split at h
  · rename_i hi
    cases h
    exact ⟨hi, by simp [Vector.setIfInBounds, Vector.set, Array.setIfInBounds, hi]⟩
  · cases h

theorem write_of_lt (buf : Buf) {i : Nat} (b : Byte) (h : i < 256) :
    Buf.write buf i b = some (buf.setIfInBounds i b) := by
  obtain ⟨buf', hw⟩ := write_isSome buf i b h
  rw [hw, (write_eq_some hw).2]

/-- In RX_PAYLOAD the invariant keeps the index inside the buffer (R21, R22). -/
theorem RxRegs.Inv.idx_lt {kind3b : Bool} {r : RxRegs} (h : r.Inv kind3b) (hs : r.state = .payload) :
    r.idx.toNat < 256 := by
  simp only [RxRegs.Inv, hs] at h
  obtain ⟨-, hsize, hidx, -⟩ := h
  omega

/-- In TX_PAYLOAD the invariant keeps the index inside the buffer (R20, R22). -/
theorem TxRegs.Inv.idx_lt {r : TxRegs} (h : r.Inv) (hs : r.state = .payload) : r.idx.toNat < 256 := by
  simp only [TxRegs.Inv, hs] at h
  obtain ⟨-, hidx, -⟩ := h
  have := r.len.isLt
  omega

/-- A failure raised with a phase its status goes with (R107, R114). -/
theorem RxRegs.raise_inv (kind3b : Bool) (r : RxRegs) (st : Status) (p : RxState)
    (h : failureAt st p) : (r.raise st p).Inv kind3b := h

theorem RxRegs.afterByte_inv (kind3b : Bool) (r : RxRegs) (b : Byte) (h : r.Inv kind3b) :
    (r.afterByte kind3b b).Inv kind3b := by
  cases hs : r.state with
  | sync1 =>
    rw [r.afterByte_sync1 kind3b hs]
    simp only [RxRegs.Inv, hs] at h
    dsimp only
    split
    · exact h
    · exact r.raise_inv kind3b _ _ (.inl rfl)
  | sync2 =>
    rw [r.afterByte_sync2 kind3b hs]
    simp only [RxRegs.Inv, hs] at h
    dsimp only
    split
    · exact h
    · exact r.raise_inv kind3b _ _ (.inr rfl)
  | type =>
    rw [r.afterByte_type kind3b hs]
    simp only [RxRegs.Inv, hs] at h
    exact r.dispatch_inv kind3b b h
  | len =>
    rw [r.afterByte_len kind3b hs]
    exact r.afterLenByte_inv kind3b b hs h
  | payload =>
    rw [r.afterByte_payload kind3b hs]
    exact r.afterPayloadByte_inv kind3b b _ hs h (write_of_lt r.buf b (h.idx_lt hs))
  | ck =>
    rw [r.afterByte_ck kind3b hs]
    exact r.afterCkByte_inv kind3b b hs h
  | _ => simpa only [RxRegs.afterByte, hs] using h

theorem RxRegs.afterPeekAnswer_inv (kind3b : Bool) (r : RxRegs) (a : PeekAnswer)
    (hs : r.state = .probe) (h : r.Inv kind3b) : (r.afterPeekAnswer a).Inv kind3b := by
  simp only [RxRegs.Inv, hs] at h
  obtain ⟨hidx, hacc, htyped, hkind⟩ := h
  simp only [RxRegs.typed, hkind] at htyped
  cases a with
  | nothing => simp [RxRegs.afterPeekAnswer, RxRegs.Inv, RxRegs.finish, RxRegs.typed, *]
  | ready b => simp [RxRegs.afterPeekAnswer, RxRegs.Inv, RxRegs.typed, *]
  | error => exact r.raise_inv kind3b _ _ (by simp [failureAt])

/-- A Read that fails raises TRANSPORT_FAILURE in a state that reads (R99). -/
theorem failureAt_reads {p : RxState} (h : p.reads = true) : failureAt .transportFailure p := by
  cases p <;> simp_all [RxState.reads, failureAt]

/-- The byte that a reading move took did to the registers what `RxRegs.afterByte` says. -/
theorem eq_afterByte_of_readByte {kind3b : Bool} {q r : RxRegs} {b : Byte}
    (h :
      (q.state = .sync1 ∧
        r = if b = 0xAA then { q with state := .sync2 } else q.raise .resync .sync1) ∨
      (q.state = .sync2 ∧
        r = if b = 0x55 then { q with state := .type } else q.raise .resync .sync2) ∨
      (q.state = .type ∧ r = q.dispatch kind3b b) ∨
      (q.state = .len ∧ r = q.afterLenByte b) ∨
      (q.state = .payload ∧
        ∃ buf, Buf.write q.buf q.idx.toNat b = some buf ∧ r = q.afterPayloadByte b buf) ∨
      (q.state = .ck ∧ r = q.afterCkByte b)) :
    r = q.afterByte kind3b b := by
  rcases h with ⟨hs, hr⟩ | ⟨hs, hr⟩ | ⟨hs, hr⟩ | ⟨hs, hr⟩ | ⟨hs, buf, hw, hr⟩ | ⟨hs, hr⟩
  · rw [hr, q.afterByte_sync1 kind3b hs]
  · rw [hr, q.afterByte_sync2 kind3b hs]
  · rw [hr, q.afterByte_type kind3b hs]
  · rw [hr, q.afterByte_len kind3b hs]
  · rw [hr, q.afterByte_payload kind3b hs, (write_eq_some hw).2]
  · rw [hr, q.afterByte_ck kind3b hs]

/-- A Peek leaves the duty only with the byte it saw in the slot (R32). -/
theorem Transport.afterPeek_duty (l : Transport) (t : Nat) (d : Draw)
    (h : l.duty = true → l.pushback ≠ none) :
    (l.afterPeek t d).duty = true → (l.afterPeek t d).pushback ≠ none := by
  rcases afterPeek_cases l t d with ⟨b, rest, -, -, -, ha⟩ | ⟨-, ha⟩ | ⟨-, ha⟩ <;> rw [ha]
  · simp
  · exact h
  · exact h

/-- A record received into a variable keeps the records of the others (R38). -/
theorem recordOk_writeVar {v : Nat} {q : HostRecord} {vars : List (Nat × HostRecord)}
    (hvars : ∀ e ∈ vars, recordOk e.2) (hq : recordOk q) : ∀ e ∈ writeVar v q vars, recordOk e.2 := by
  intro e he
  rcases mem_writeVar he with rfl | he
  · exact hq
  · exact hvars e he

/-- A framer step that writes keeps the invariant if the registers it lands with do. -/
theorem State.Inv.sendByte {s : State} (h : s.Inv) (a : WriteAnswer) (b : Byte) (r : TxRegs)
    (hrst : s.cfg.rst = false) (hr : r.Inv) : (s.sendByte a b r).Inv := by
  obtain ⟨-, hrx, hvars, hrecords, -, hduty⟩ := h
  exact ⟨sendByte_inv s a b r hr, hrx, hvars, hrecords, by simp [hrst], by simpa using hduty⟩

/-- A deframer move keeps the invariant if the registers and the duty it leaves do. -/
theorem State.Inv.deframer {s : State} (h : s.Inv) (r : RxRegs) (l : Transport)
    (hrst : s.cfg.rst = false) (hr : r.Inv s.cfg.kind3b)
    (hl : l.duty = true → l.pushback ≠ none) : State.Inv { s with rx := r, link := l } := by
  obtain ⟨htx, -, hvars, hrecords, -, -⟩ := h
  exact ⟨htx, hr, hvars, hrecords, by simp [hrst], hl⟩

/-- Every move keeps the invariant. -/
theorem Move.inv {i : Input} {s t : State} (hm : Move i s t) (h : s.Inv) : t.Inv := by
  have ⟨htx, hrx, hvars, hrecords, hidle, hduty⟩ := h
  cases hm with
  | offer o _ => exact ⟨htx, hrx, by simpa using hvars, by simpa using hrecords, hidle, hduty⟩
  | arrive bs _ => exact ⟨htx, hrx, hvars, hrecords, hidle, hduty⟩
  | rst level _ _ =>
    exact ⟨by simp [TxRegs.Inv], by simp [RxRegs.Inv], hvars, hrecords, fun _ => ⟨rfl, rfl⟩, hduty⟩
  | config k n _ hk =>
    refine ⟨htx, ?_, hvars, hrecords, hidle, hduty⟩
    by_cases hb : s.rxBusy = true
    · obtain ⟨rfl, -⟩ := hk hb
      exact hrx
    · have hs : s.rx.state = .idle := by simpa [State.rxBusy] using hb
      simp [RxRegs.Inv, hs]
  | encode _ r rest _ hl _ hrst =>
    exact ⟨s.tx.accept_inv _ _ _ r.len hl, hrx, hvars, hrecords, by simp [hrst], hduty⟩
  | txdone _ v rest _ hs =>
    have hst : recordOk (.txDone s.tx.status) := by
      simpa only [TxRegs.Inv, hs, recordOk] using htx
    exact ⟨by simp [TxRegs.Inv], hrx, varsOk_writeVar _ _ _ hvars,
      recordOk_writeVar hrecords hst, fun hr => ⟨rfl, (hidle hr).2⟩, hduty⟩
  | decode _ n rest _ _ hrst =>
    exact ⟨htx, by simp [RxRegs.Inv], hvars, hrecords, by simp [hrst], hduty⟩
  | rxres _ v rest _ hs =>
    exact ⟨htx, by simp [RxRegs.Inv], varsOk_writeVar _ _ _ hvars,
      recordOk_writeVar hrecords (s.rx.record_ok _ hrx hs), fun hr => ⟨(hidle hr).1, rfl⟩, hduty⟩
  | txSync1 a _ hs hrst =>
    simp only [TxRegs.Inv, hs] at htx
    exact h.sendByte a _ _ hrst htx
  | txSync2 a _ hs hrst =>
    simp only [TxRegs.Inv, hs] at htx
    exact h.sendByte a _ _ hrst htx
  | txType a _ hs hrst =>
    simp only [TxRegs.Inv, hs] at htx
    obtain ⟨hfits, hidx, hacc⟩ := htx
    refine h.sendByte a _ _ hrst ?_
    split
    · simp [TxRegs.Inv]
    · exact ⟨hfits, hidx, hacc, by assumption⟩
  | txLen a _ hs hrst =>
    simp only [TxRegs.Inv, hs] at htx
    obtain ⟨hfits, hidx, hacc, hlen⟩ := htx
    have hpos : s.tx.len.toNat ≠ 0 := fun e => hlen (BitVec.eq_of_toNat_eq (by simpa using e))
    exact h.sendByte a _ _ hrst ⟨hfits, by simp [hidx]; omega, by simp [hidx, hacc]⟩
  | txPayload a _ b hs hb hrst =>
    exact h.sendByte a _ _ hrst (s.tx.afterPayloadByte_inv b hs htx hb)
  | txCk a _ hs hrst => exact h.sendByte a _ _ hrst (by simp [TxRegs.Inv])
  | readFailed d _ a hs _ _ hrst =>
    exact h.deframer _ _ hrst (s.rx.raise_inv _ _ _ (failureAt_reads hs)) (by simp)
  | readByte d _ b line r hs _ _ _ hrst hr =>
    rw [eq_afterByte_of_readByte hr]
    exact h.deframer _ _ hrst (s.rx.afterByte_inv _ b hrx) (by simp)
  | probe d _ hs hrst =>
    rw [rxProbeStep_eq]
    exact h.deframer _ _ hrst (s.rx.afterPeekAnswer_inv _ _ hs hrx)
      (s.link.afterPeek_duty _ d hduty)
  | _ => exact h

/-- Settles O39: a step is a move made off the tape, and every move keeps the invariant (`Move.inv`). -/
theorem everyStepKeepsTheInvariant : Obligations.EveryStepKeepsTheInvariant := by
  unfold Obligations.EveryStepKeepsTheInvariant
  intro s t hinv hstep
  rcases step_cases s t hstep with ⟨-, rfl⟩ | ⟨i, rest, -, hmove⟩
  · exact hinv
  · exact hmove.inv hinv

/-- Settles O38: in State.reset both engines are idle and no host variable is written. -/
theorem invariantHoldsAtReset : Obligations.InvariantHoldsAtReset := by
  unfold Obligations.InvariantHoldsAtReset State.Inv
  refine ⟨trivial, trivial, List.Pairwise.nil, ?_, ?_, ?_⟩
  · intro e he
    cases he
  · intro hrst
    cases hrst
  · intro hduty
    cases hduty

end Sys2Proof.Machine

namespace Sys2Proof.Machine

/-!
### Reset, flags, level inputs and handshakes (10_state.md R14, R15, R23, R28)
-/

theorem State.txBusy_iff (s : State) : s.txBusy = true ↔ s.tx.state ≠ .idle := by
  simp [State.txBusy]

theorem State.txDoneValid_iff (s : State) : s.txDoneValid = true ↔ s.tx.state = .done := by
  simp [State.txDoneValid]

theorem State.rxBusy_iff (s : State) : s.rxBusy = true ↔ s.rx.state ≠ .idle := by
  simp [State.rxBusy]

theorem State.rxResValid_iff (s : State) :
    s.rxResValid = true ↔ (s.rx.state = .done ∨ s.rx.state = .failed) := by
  simp [State.rxResValid]

/-- A command offered to a busy framer waits (R14, R76). -/
theorem exec_encode_of_busy {s : State} (h : s.tx.state ≠ .idle) (wt : Byte) (hc : Bool)
    {p : List Byte} (hp : p.length ≤ 255) : exec (.encode wt hc p) s = .next s := by
  have hmax : ¬ Config.maxPayload < p.length := Nat.not_lt.mpr hp
  simp [exec, execEncode, hmax, h]

theorem exec_txdone_of_not_done {s : State} (h : s.tx.state ≠ .done) (v : Nat) :
    exec (.txdone v) s = .next s := by
  simp [exec, execTxdone, h]

/-- A command offered to a busy deframer waits (R14, R91). -/
theorem exec_decode_of_busy {s : State} (h : s.rx.state ≠ .idle) (n : Timeout) :
    exec (.decode n) s = .next s := by
  simp [exec, execDecode, h]

theorem exec_rxres_of_no_result {s : State} (h : ¬(s.rx.state = .done ∨ s.rx.state = .failed))
    (v : Nat) : exec (.rxres v) s = .next s := by
  simp only [exec, execRxres, if_neg h]

/-- Settles O1: each fact is read off State.reset. -/
theorem resetLeavesBothEnginesIdle : Obligations.ResetLeavesBothEnginesIdle :=
  ⟨rfl, rfl, rfl, rfl, rfl, rfl, rfl⟩

/-- Settles O2: each flag is an equation of its state register, and each port's operation waits without it. -/
theorem statusFlagsGateThePorts : Obligations.StatusFlagsGateThePorts := by
  unfold Obligations.StatusFlagsGateThePorts
  refine ⟨fun s => ⟨s.txBusy_iff, s.txDoneValid_iff, s.rxBusy_iff, s.rxResValid_iff,
    ?_, ?_, ?_, ?_⟩, rfl, rfl, rfl, rfl⟩
  · intro hbusy wt hc p hp
    exact exec_encode_of_busy (s.txBusy_iff.mp hbusy) wt hc hp
  · intro hvalid v
    exact exec_txdone_of_not_done (fun h => by simp [s.txDoneValid_iff.mpr h] at hvalid) v
  · intro hbusy n
    exact exec_decode_of_busy (s.rxBusy_iff.mp hbusy) n
  · intro hvalid v
    exact exec_rxres_of_no_result (fun h => by simp [s.rxResValid_iff.mpr h] at hvalid) v

/-- A port whose oldest offer decodes to `i` fetches `i` (R63). -/
theorem fetchOffer_of_decode {s : State} {p : HostPort} {o : Offer} {i : Instr}
    (ho : s.ports.head? p = some o) (hi : decode s.cfg.kind3b (.host o) = .instr i) :
    fetchOffer p s = .run i s := by
  simp [fetchOffer, fetchEncoded, ho, hi]

/-- Settles O11: the handshake's move fetches the port's oldest offer and runs what it decodes to. -/
theorem stepRunsTheOfferedInstruction : Obligations.StepRunsTheOfferedInstruction := by
  unfold Obligations.StepRunsTheOfferedInstruction
  intro s p rest o i htape ho hi
  rw [step_host s p rest htape]
  have hfetch : fetchOffer p { s with tape := rest } = .run i { s with tape := rest } :=
    fetchOffer_of_decode ho hi
  rw [hfetch, Fetched.outcome_run]

/-- Settles O59: both moves are made by the fetch itself. -/
theorem levelInputsAreDriven : Obligations.LevelInputsAreDriven := by
  unfold Obligations.LevelInputsAreDriven
  intro s level rest
  exact ⟨fun h => step_cons s (.link level) rest h, fun h => step_cons s (.avail level) rest h⟩

end Sys2Proof.Machine

namespace Sys2Proof.Machine

/-!
### Where a step stops (10_state.md R22, 30_encoding.md R56, 70_reset_and_hazards.md R127)

`Move` says every next state a step can answer; `Stops` says every fault and every refusal. A move either
answers a next state or is one of `Stops` (`fetchInput_next_or_stops`).
-/

/-- `Stops i s o`: the move `i`, already off the tape of `s`, answers the fault or the refusal `o`. -/
inductive Stops : Input → State → Host.Outcome State Fault Refusal → Prop where
  | txIndex (a : WriteAnswer) (s : State) (hs : s.tx.state = .payload)
    (hidx : Buf.read s.tx.buf s.tx.idx.toNat = none) :
    Stops (.framer a) s (.fault .txIndexBeyondBuffer)
  | rxIndex (d : Draw) (s : State) (b : Byte) (hs : s.rx.state = .payload)
    (hidx : Buf.write s.rx.buf s.rx.idx.toNat b = none) :
    Stops (.deframer d) s (.fault .rxIndexBeyondBuffer)
  | config (k : Bool) (n : Nat) (s : State) (hbusy : s.rxBusy = true)
    (hn : ¬(k = s.cfg.kind3b ∧ n = s.cfg.peekTimeout)) :
    Stops (.config k n) s (.fault .configChangedWhileBusy)
  | illFormed (s : State) (r : TxCmdRecord) (cmds : List TxCmdRecord) (hc : s.ports.txCmd = r :: cmds)
    (hl : r.payload.length ≠ r.len.toNat) :
    Stops (.host .txCmd) s (.refused (.undecodable (.payloadNotLen r.len r.payload.length)))

/-- Outside TX_PAYLOAD every framer turn answers a next state; there, one that reads inside the buffer. -/
theorem txStep_next_or_stops (a : WriteAnswer) (s : State) :
    (∃ t, txStep a s = .next t) ∨ Stops (.framer a) s (txStep a s) := by
  cases hs : s.tx.state with
  | payload =>
    simp only [txStep, hs, txPayloadStep]
    cases hb : Buf.read s.tx.buf s.tx.idx.toNat with
    | some b => exact .inl ⟨_, rfl⟩
    | none => exact .inr (.txIndex a s hs hb)
  | _ =>
    simp only [txStep, hs]
    exact .inl ⟨_, rfl⟩

/-- Outside RX_PAYLOAD every deframer turn answers a next state; there, one that writes inside the buffer. -/
theorem rxStep_next_or_stops (d : Draw) (s : State) :
    (∃ t, rxStep d s = .next t) ∨ Stops (.deframer d) s (rxStep d s) := by
  cases hs : s.rx.state with
  | payload =>
    simp only [rxStep, hs, rxPayloadStep]
    cases s.link.readAnswer d with
    | byte b =>
      dsimp only
      cases hw : Buf.write s.rx.buf s.rx.idx.toNat b with
      | some buf => exact .inl ⟨_, rfl⟩
      | none => exact .inr (.rxIndex d s b hs hw)
    | _ => exact .inl ⟨_, rfl⟩
  | _ =>
    simp only [rxStep, hs]
    exact .inl ⟨_, rfl⟩

/-- What a port's offer decodes to, if to an instruction, is well-formed (R56). -/
theorem wellFormed_of_decode_host {kind3b : Bool} {o : Offer} {i : Instr}
    (h : decode kind3b (.host o) = .instr i) : i.wellFormed = true := by
  cases o with
  | txCmd r =>
    simp only [decode] at h
    split at h
    · rename_i hl
      cases h
      exact decide_eq_true (hl ▸ Nat.le_of_lt_succ r.len.isLt)
    · cases h
  | txDone v => cases h; rfl
  | rxCmd n => cases h; rfl
  | rxRes v => cases h; rfl

/-- Only a tx_cmd record whose len is not its payload's length decodes to no instruction (R56). -/
theorem decode_host_rejected {kind3b : Bool} {o : Offer} {r : Reject}
    (h : decode kind3b (.host o) = .rejected r) :
    ∃ rec, o = .txCmd rec ∧ rec.payload.length ≠ rec.len.toNat ∧
      r = .payloadNotLen rec.len rec.payload.length := by
  cases o with
  | txCmd rec =>
    simp only [decode] at h
    split at h
    · cases h
    · rename_i hl
      cases h
      exact ⟨rec, rfl, hl, rfl⟩
  | txDone v => cases h
  | rxCmd n => cases h
  | rxRes v => cases h

/-- A well-formed instruction always answers a next state. -/
theorem exec_next_of_wellFormed {i : Instr} (h : i.wellFormed = true) (s : State) :
    ∃ t, exec i s = .next t := by
  cases i with
  | encode wt hc p =>
    have hmax : ¬ Config.maxPayload < p.length := by simpa [Instr.wellFormed] using h
    simp only [exec, execEncode, if_neg hmax]
    split <;> exact ⟨_, rfl⟩
  | txdone v =>
    simp only [exec, execTxdone]
    split <;> exact ⟨_, rfl⟩
  | decode n =>
    simp only [exec, execDecode]
    split <;> exact ⟨_, rfl⟩
  | rxres v =>
    simp only [exec, execRxres]
    split <;> exact ⟨_, rfl⟩
  | _ => exact ⟨_, rfl⟩

/-- A tx_cmd offer on a port is the first of that port's records. -/
theorem Ports.txCmd_of_head? {p : Ports} {q : HostPort} {r : TxCmdRecord}
    (h : p.head? q = some (.txCmd r)) : q = .txCmd ∧ ∃ cmds, p.txCmd = r :: cmds := by
  have hq : HostPort.txCmd = q := p.port_of_head? q _ h
  subst hq
  obtain ⟨r', hr', he⟩ := Option.map_eq_some_iff.mp h
  cases he
  exact ⟨rfl, List.head?_eq_some_iff.mp hr'⟩

theorem fetchOffer_next_or_stops (p : HostPort) (s : State) :
    (∃ t, (fetchOffer p s).outcome = .next t) ∨ Stops (.host p) s (fetchOffer p s).outcome := by
  cases ho : s.ports.head? p with
  | none =>
    refine .inl ⟨s, ?_⟩
    simp [fetchOffer, ho]
  | some o =>
    cases hd : decode s.cfg.kind3b (.host o) with
    | instr i =>
      rw [fetchOffer_of_decode ho hd]
      exact .inl (exec_next_of_wellFormed (wellFormed_of_decode_host hd) s)
    | rejected r =>
      obtain ⟨rec, rfl, hl, rfl⟩ := decode_host_rejected hd
      obtain ⟨rfl, cmds, hc⟩ := Ports.txCmd_of_head? ho
      right
      have hfetch : fetchOffer .txCmd s =
          .did (.refused (.undecodable (.payloadNotLen rec.len rec.payload.length))) := by
        simp [fetchOffer, fetchEncoded, ho, hd]
      rw [hfetch]
      exact .illFormed s rec cmds hc hl

/-- A move answers a next state, or it is one of `Stops`. -/
theorem fetchInput_next_or_stops (i : Input) (s : State) :
    (∃ t, (fetchInput i s).outcome = .next t) ∨ Stops i s (fetchInput i s).outcome := by
  cases i with
  | host p => exact fetchOffer_next_or_stops p s
  | framer a =>
    by_cases hr : s.cfg.rst = true
    · exact .inl ⟨s, by simp [fetchInput, hr]⟩
    · simpa [fetchInput, hr] using txStep_next_or_stops a s
  | deframer d =>
    by_cases hr : s.cfg.rst = true
    · exact .inl ⟨s, by simp [fetchInput, hr]⟩
    · by_cases ht : s.rx.state = .type
      · refine .inl ⟨s.receiveByte d (s.rx.dispatch s.cfg.kind3b), ?_⟩
        simp only [fetchInput, if_neg hr, if_pos ht]
        exact fetchHeader_outcome d s
      · simpa [fetchInput, hr, ht] using rxStep_next_or_stops d s
  | config k n =>
    simp only [fetchInput, Fetched.outcome_did, driveConfig]
    split
    · rename_i h
      obtain ⟨hbusy, hn⟩ := h
      exact .inr (.config k n s hbusy hn)
    · exact .inl ⟨_, rfl⟩
  | _ => exact .inl ⟨_, rfl⟩

/-- Everything a step that answers no next state can be. -/
theorem step_stops {s : State} {o : Host.Outcome State Fault Refusal} (h : step s = o)
    (ho : ∀ t, o ≠ .next t) :
    ∃ i rest, s.tape = i :: rest ∧ Stops i { s with tape := rest } o := by
  subst h
  cases htape : s.tape with
  | nil => exact absurd (step_nil s htape) (ho s)
  | cons i rest =>
    rw [step_cons s i rest htape] at ho ⊢
    rcases fetchInput_next_or_stops i { s with tape := rest } with ⟨t, ht⟩ | hstops
    · exact absurd ht (ho t)
    · exact ⟨i, rest, rfl, hstops⟩

/-- A buffer index that the invariant keeps inside the buffer reads a byte. -/
theorem TxRegs.Inv.read_ne_none {r : TxRegs} (h : r.Inv) (hs : r.state = .payload) :
    Buf.read r.buf r.idx.toNat ≠ none := by
  obtain ⟨b, hb⟩ := read_isSome r.buf r.idx.toNat (h.idx_lt hs)
  simp [hb]

/-- Settles O40: of the faults in `Stops` the invariant excludes the two of an index beyond its buffer. -/
theorem onlyAConfigurationChangeFaults : Obligations.OnlyAConfigurationChangeFaults := by
  unfold Obligations.OnlyAConfigurationChangeFaults
  intro s f hinv hstep
  obtain ⟨htx, hrx, -⟩ := hinv
  obtain ⟨i, rest, htape, hstops⟩ := step_stops hstep (by simp)
  cases hstops with
  | txIndex a _ hs hidx => exact absurd hidx (htx.read_ne_none hs)
  | rxIndex d _ b hs hidx =>
    exact absurd ((write_none _ _ _).mp hidx) (Nat.not_le.mpr (hrx.idx_lt hs))
  | config k n _ hbusy hn => exact ⟨rfl, hbusy, k, n, rest, htape, hn⟩

/-- The handshake of an ill-formed tx_cmd record is refused (R56; log 24). -/
theorem step_refuses_illFormed {s : State} {r : TxCmdRecord} {cmds : List TxCmdRecord}
    {rest : List Input} (htape : s.tape = .host .txCmd :: rest) (hc : s.ports.txCmd = r :: cmds)
    (hl : r.payload.length ≠ r.len.toNat) :
    step s = .refused (.undecodable (.payloadNotLen r.len r.payload.length)) := by
  rw [step_host s _ rest htape]
  simp [fetchOffer, fetchEncoded, Ports.head?, hc, decode, hl]

/-- Settles O41: the one refusal in `Stops` is the ill-formed record's, and that handshake is refused. -/
theorem onlyIllFormedRecordsAreRefused : Obligations.OnlyIllFormedRecordsAreRefused := by
  unfold Obligations.OnlyIllFormedRecordsAreRefused
  refine ⟨fun s r => ⟨fun hstep => ?_, ?_⟩, ?_⟩
  · obtain ⟨i, rest, htape, hstops⟩ := step_stops hstep (by simp)
    cases hstops with
    | illFormed _ rec cmds hc hl => exact ⟨rec, cmds, rest, htape, hc, hl, rfl⟩
  · rintro ⟨rec, cmds, rest, htape, hc, hl, rfl⟩
    exact step_refuses_illFormed htape hc hl
  · intro s wt hc p hp
    have hmax : Config.maxPayload < p.length := hp
    simp [exec, execEncode, hmax]

end Sys2Proof.Machine

namespace Sys2Proof.Machine

/-!
### Offers stand until they are accepted (10_state.md R14)

One lemma a port: what a move does to the offers on it.
-/

/-- ENCODE acceptance starts the frame or refuses its length (R76). -/
theorem TxRegs.accept_state (r : TxRegs) (wt : Byte) (hc : Bool) (p : List Byte) :
    (r.accept wt hc p).state = .sync1 ∨
      ((r.accept wt hc p).state = .done ∧ (r.accept wt hc p).status = .refusedLength) := by
  unfold TxRegs.accept
  split
  · exact .inr ⟨rfl, rfl⟩
  · exact .inl rfl

section Ports
variable {i : Input} {s t : State}

theorem Move.txCmd_offers (hm : Move i s t) :
    t.ports.txCmd = s.ports.txCmd ∨
      (∃ r, i = .offer (.txCmd r) ∧ t.ports.txCmd = s.ports.txCmd ++ [r]) ∨
      (∃ r, s.ports.txCmd = r :: t.ports.txCmd ∧ s.tx.state = .idle ∧ s.cfg.rst = false ∧
        (t.tx.state = .sync1 ∨ (t.tx.state = .done ∧ t.tx.status = .refusedLength))) := by
  cases hm with
  | offer o =>
    cases o with
    | txCmd r => exact .inr (.inl ⟨r, rfl, rfl⟩)
    | _ => exact .inl rfl
  | encode _ r rest hc _ hs hrst =>
    exact .inr (.inr ⟨r, hc, hs, hrst, s.tx.accept_state r.wireType r.hasChecksum r.payload⟩)
  | _ => exact .inl rfl

theorem Move.rxCmd_offers (hm : Move i s t) :
    t.ports.rxCmd = s.ports.rxCmd ∨
      (∃ n, i = .offer (.rxCmd n) ∧ t.ports.rxCmd = s.ports.rxCmd ++ [n]) ∨
      (∃ n, s.ports.rxCmd = n :: t.ports.rxCmd ∧ s.rx.state = .idle ∧ s.cfg.rst = false ∧
        t.rx.state = .sync1 ∧ t.rx.tmo = n) := by
  cases hm with
  | offer o =>
    cases o with
    | rxCmd n => exact .inr (.inl ⟨n, rfl, rfl⟩)
    | _ => exact .inl rfl
  | decode _ n rest hc hs hrst => exact .inr (.inr ⟨n, hc, hs, hrst, rfl, rfl⟩)
  | _ => exact .inl rfl

theorem Move.txDone_offers (hm : Move i s t) :
    t.ports.txDone = s.ports.txDone ∨
      (∃ v, i = .offer (.txDone v) ∧ t.ports.txDone = s.ports.txDone ++ [v]) ∨
      (∃ v, s.ports.txDone = v :: t.ports.txDone ∧ s.tx.state = .done ∧ t.tx.state = .idle) := by
  cases hm with
  | offer o =>
    cases o with
    | txDone v => exact .inr (.inl ⟨v, rfl, rfl⟩)
    | _ => exact .inl rfl
  | txdone _ v rest hc hs => exact .inr (.inr ⟨v, hc, hs, rfl⟩)
  | _ => exact .inl rfl

theorem Move.rxRes_offers (hm : Move i s t) :
    t.ports.rxRes = s.ports.rxRes ∨
      (∃ v, i = .offer (.rxRes v) ∧ t.ports.rxRes = s.ports.rxRes ++ [v]) ∨
      (∃ v, s.ports.rxRes = v :: t.ports.rxRes ∧ (s.rx.state = .done ∨ s.rx.state = .failed) ∧
        t.rx.state = .idle) := by
  cases hm with
  | offer o =>
    cases o with
    | rxRes v => exact .inr (.inl ⟨v, rfl, rfl⟩)
    | _ => exact .inl rfl
  | rxres _ v rest hc hs => exact .inr (.inr ⟨v, hc, hs, rfl⟩)
  | _ => exact .inl rfl

end Ports

/-- Settles O51: an offer's step is `step_offer`, and `Move` says what else can happen to each port. -/
theorem noCommandIsLost : Obligations.NoCommandIsLost := by
  unfold Obligations.NoCommandIsLost
  refine ⟨fun s rest => ⟨fun r => step_offer s (.txCmd r) rest, fun v => step_offer s (.txDone v) rest,
    fun n => step_offer s (.rxCmd n) rest, fun v => step_offer s (.rxRes v) rest⟩, ?_⟩
  intro s t hstep
  rcases step_cases s t hstep with ⟨-, rfl⟩ | ⟨i, rest, htape, hmove⟩
  · exact ⟨.inl rfl, .inl rfl, .inl rfl, .inl rfl⟩
  · refine ⟨hmove.txCmd_offers.imp_right (Or.imp_left ?_),
      hmove.rxCmd_offers.imp_right (Or.imp_left ?_), hmove.txDone_offers.imp_right (Or.imp_left ?_),
      hmove.rxRes_offers.imp_right (Or.imp_left ?_)⟩ <;>
    · rintro ⟨x, rfl, hx⟩
      exact ⟨x, rest, htape, hx⟩

end Sys2Proof.Machine

namespace Sys2Proof.Machine

/-!
### A DECODE's result does not depend on what the registers held before it (10_state.md R27)

Two machines run the same turns after the same DECODE. The registers the deframer's rules have written since
agree (`RxRegs.Agree`), every turn keeps the two machines so (`Twins.turn`), and each turn brings the result
nearer (`RxRegs.turnsLeft`).
-/

/-- The state after the deframer's turn, rst released (R33, R94, R95, R99). -/
def State.deframerTurn (s : State) (d : Draw) : State :=
  if s.rx.state.reads = true then s.receiveByte d (s.rx.afterByte s.cfg.kind3b)
  else if s.rx.state = .probe then rxProbeStep d s
  else s

/-- RX_PAYLOAD's turn with the index inside the buffer (R97). -/
theorem rxPayloadStep_eq (d : Draw) (s : State) (hs : s.rx.state = .payload)
    (hidx : s.rx.idx.toNat < 256) :
    rxPayloadStep d s = .next (s.receiveByte d (s.rx.afterByte s.cfg.kind3b)) := by
  simp only [rxPayloadStep, State.receiveByte, RxRegs.afterByte_payload _ _ hs]
  cases s.link.readAnswer d with
  | byte b => simp only [write_of_lt s.rx.buf b hidx]
  | timeout => rfl
  | error => rfl

/-- The deframer's turn, in every state, under the invariant of its registers. -/
theorem fetchInput_deframer (d : Draw) (s : State) (hrst : s.cfg.rst = false)
    (hinv : s.rx.Inv s.cfg.kind3b) :
    (fetchInput (.deframer d) s).outcome = .next (s.deframerTurn d) := by
  by_cases ht : s.rx.state = .type
  · simp only [fetchInput, hrst, Bool.false_eq_true, if_false, fetchHeader_outcome, State.deframerTurn,
      ht, RxState.reads, if_true, RxRegs.afterByte_type _ _ ht]
  · simp only [fetchInput, hrst, Bool.false_eq_true, if_false, if_neg ht, Fetched.outcome_did,
      State.deframerTurn, rxStep]
    cases hs : s.rx.state with
    | type => exact absurd hs ht
    | sync1 => simp [RxState.reads, RxRegs.afterByte_sync1 _ _ hs, rxSync1Step]
    | sync2 => simp [RxState.reads, RxRegs.afterByte_sync2 _ _ hs, rxSync2Step]
    | len => simp [RxState.reads, RxRegs.afterByte_len _ _ hs, rxLenStep]
    | payload => simpa [RxState.reads] using rxPayloadStep_eq d s hs (hinv.idx_lt hs)
    | ck => simp [RxState.reads, RxRegs.afterByte_ck _ _ hs, rxCkStep]
    | _ => simp [RxState.reads]

/-- A deframer's turn off the tape. -/
theorem step_deframerTurn {s : State} {d : Draw} {rest : List Input}
    (htape : s.tape = .deframer d :: rest) (hrst : s.cfg.rst = false)
    (hinv : s.rx.Inv s.cfg.kind3b) :
    step s = .next (State.deframerTurn { s with tape := rest } d) := by
  rw [step_cons s _ rest htape]
  exact fetchInput_deframer d { s with tape := rest } hrst hinv

/-! ### What a turn leaves in the deframer's registers -/

/-- What a Read's answer does to the deframer's registers in a state that reads (R99). -/
def RxRegs.afterReadAnswer (kind3b : Bool) (r : RxRegs) : ReadAnswer → RxRegs
  | .byte b => r.afterByte kind3b b
  | .timeout => r.raise .transportFailure r.state
  | .error => r.raise .transportFailure r.state

section Turn
variable {s : State} (d : Draw)

theorem State.deframerTurn_of_reads (h : s.rx.state.reads = true) :
    s.deframerTurn d =
      { s with
        link := s.link.afterRead s.rx.tmo d
        rx := s.rx.afterReadAnswer s.cfg.kind3b (s.link.readAnswer d) } := by
  simp only [State.deframerTurn, h, if_true, State.receiveByte, State.afterRead]
  cases s.link.readAnswer d <;> rfl

theorem State.deframerTurn_of_probe (h : s.rx.state = .probe) :
    s.deframerTurn d =
      { s with
        link := s.link.afterPeek s.cfg.peekTimeout d
        rx := s.rx.afterPeekAnswer (s.link.peekAnswer d) } := by
  simp [State.deframerTurn, h, RxState.reads, rxProbeStep_eq]

theorem State.deframerTurn_of_waits (h : s.rx.state.inFrame = false) : s.deframerTurn d = s := by
  unfold State.deframerTurn
  cases hs : s.rx.state <;> simp_all [RxState.reads, RxState.inFrame]

/-- A state reads, probes, or has no step of its own. -/
theorem RxState.reads_or_probe_or_waits (p : RxState) :
    p.reads = true ∨ p = .probe ∨ p.inFrame = false := by
  cases p <;> simp [RxState.reads, RxState.inFrame]

theorem State.deframerTurn_frame :
    (s.deframerTurn d).tape = s.tape ∧ (s.deframerTurn d).cfg = s.cfg := by
  rcases s.rx.state.reads_or_probe_or_waits with h | h | h
  · rw [State.deframerTurn_of_reads d h]
    exact ⟨rfl, rfl⟩
  · rw [State.deframerTurn_of_probe d h]
    exact ⟨rfl, rfl⟩
  · rw [State.deframerTurn_of_waits d h]
    exact ⟨rfl, rfl⟩

end Turn

theorem RxRegs.afterReadAnswer_inv (kind3b : Bool) (r : RxRegs) (a : ReadAnswer)
    (hs : r.state.reads = true) (h : r.Inv kind3b) : (r.afterReadAnswer kind3b a).Inv kind3b := by
  cases a with
  | byte b => exact r.afterByte_inv kind3b b h
  | timeout => exact r.raise_inv kind3b _ _ (failureAt_reads hs)
  | error => exact r.raise_inv kind3b _ _ (failureAt_reads hs)

theorem State.deframerTurn_inv {s : State} (d : Draw) (h : s.rx.Inv s.cfg.kind3b) :
    (s.deframerTurn d).rx.Inv s.cfg.kind3b := by
  rcases s.rx.state.reads_or_probe_or_waits with hs | hs | hs
  · rw [State.deframerTurn_of_reads d hs]
    exact s.rx.afterReadAnswer_inv _ _ hs h
  · rw [State.deframerTurn_of_probe d hs]
    exact s.rx.afterPeekAnswer_inv _ _ hs h
  · rw [State.deframerTurn_of_waits d hs]
    exact h

/-! ### How far the result is -/

/-- A bound on the turns the deframer still takes to a result: the longest frame has 254 payload bytes and a
checksum byte behind its LEN (R105), and the probe before it (R95). -/
def RxRegs.turnsLeft (r : RxRegs) : Nat :=
  match r.state with
  | .idle => 0
  | .sync1 => 260
  | .sync2 => 259
  | .type => 258
  | .probe => 257
  | .len => 256
  | .payload => r.size.toNat - r.idx.toNat + 1
  | .ck => 1
  | .done => 0
  | .failed => 0

@[simp] theorem RxRegs.turnsLeft_raise (r : RxRegs) (st : Status) (p : RxState) :
    (r.raise st p).turnsLeft = 0 := rfl

@[simp] theorem RxRegs.turnsLeft_finish (r : RxRegs) (st : Status) : (r.finish st).turnsLeft = 0 := rfl

theorem RxRegs.turnsLeft_pos {r : RxRegs} (h : r.state.inFrame = true) : 0 < r.turnsLeft := by
  unfold RxRegs.turnsLeft
  cases hs : r.state <;> simp_all [RxState.inFrame]

theorem RxRegs.turnsLeft_dispatch_lt (r : RxRegs) (kind3b : Bool) (t : Byte) :
    (r.dispatch kind3b t).turnsLeft < 258 := by
  simp only [RxRegs.dispatch]
  split
  · simp only [RxRegs.dispatchKnown]
    split
    · simp
    · simp [RxRegs.turnsLeft]
  · simp [RxRegs.dispatchUnknown, RxRegs.turnsLeft]

theorem RxRegs.turnsLeft_afterLenByte_lt {r : RxRegs} {kind3b : Bool} {b : Byte}
    (hs : r.state = .len) (h : r.Inv kind3b) : (r.afterLenByte b).turnsLeft < 256 := by
  have hinv := r.afterLenByte_inv kind3b b hs h
  have hstate : (r.afterLenByte b).state = .failed ∨ (r.afterLenByte b).state = .ck ∨
      (r.afterLenByte b).state = .payload := by
    unfold RxRegs.afterLenByte
    split <;> split_ifs <;> simp
  rcases hstate with hp | hp | hp
  · simp [RxRegs.turnsLeft, hp]
  · simp [RxRegs.turnsLeft, hp]
  · simp only [RxRegs.Inv, hp] at hinv
    obtain ⟨-, hsize, -⟩ := hinv
    simp only [RxRegs.turnsLeft, hp]
    omega

theorem RxRegs.turnsLeft_afterPayloadByte_lt {r : RxRegs} {kind3b : Bool} {b : Byte} (buf : Buf)
    (hs : r.state = .payload) (h : r.Inv kind3b) :
    (r.afterPayloadByte b buf).turnsLeft < r.turnsLeft := by
  have hlt := h.idx_lt hs
  simp only [RxRegs.Inv, hs] at h
  obtain ⟨-, -, hidx, -⟩ := h
  have hnext : (BitVec.ofNat 9 (r.idx.toNat + 1)).toNat = r.idx.toNat + 1 := by simp; omega
  simp only [RxRegs.afterPayloadByte]
  split_ifs
  · simp only [RxRegs.turnsLeft, hs, hnext]
    omega
  · simp only [RxRegs.turnsLeft, hs]
    omega
  · simp [RxRegs.turnsLeft, hs]

theorem RxRegs.turnsLeft_afterCkByte (r : RxRegs) (b : Byte) : (r.afterCkByte b).turnsLeft = 0 := by
  simp only [RxRegs.afterCkByte]
  split <;> simp

/-- A byte read brings the result nearer. -/
theorem RxRegs.turnsLeft_afterByte_lt {r : RxRegs} {kind3b : Bool} (b : Byte)
    (hs : r.state.reads = true) (h : r.Inv kind3b) :
    (r.afterByte kind3b b).turnsLeft < r.turnsLeft := by
  cases hp : r.state with
  | sync1 =>
    rw [r.afterByte_sync1 kind3b hp]
    dsimp only
    split <;> simp [RxRegs.turnsLeft, hp]
  | sync2 =>
    rw [r.afterByte_sync2 kind3b hp]
    dsimp only
    split <;> simp [RxRegs.turnsLeft, hp]
  | type =>
    rw [r.afterByte_type kind3b hp]
    exact (r.turnsLeft_dispatch_lt kind3b b).trans_eq (by simp [RxRegs.turnsLeft, hp])
  | len =>
    rw [r.afterByte_len kind3b hp]
    exact (RxRegs.turnsLeft_afterLenByte_lt hp h).trans_eq (by simp [RxRegs.turnsLeft, hp])
  | payload =>
    rw [r.afterByte_payload kind3b hp]
    exact RxRegs.turnsLeft_afterPayloadByte_lt _ hp h
  | ck =>
    rw [r.afterByte_ck kind3b hp, RxRegs.turnsLeft_afterCkByte]
    simp [RxRegs.turnsLeft, hp]
  | _ => simp [hp, RxState.reads] at hs

/-- Every turn within a frame brings the result nearer, whatever the Transport answers. -/
theorem State.turnsLeft_deframerTurn_le {s : State} (d : Draw) (h : s.rx.Inv s.cfg.kind3b) :
    (s.deframerTurn d).rx.turnsLeft ≤ s.rx.turnsLeft - 1 := by
  rcases s.rx.state.reads_or_probe_or_waits with hs | hs | hs
  · rw [State.deframerTurn_of_reads d hs]
    cases s.link.readAnswer d with
    | byte b => exact Nat.le_sub_one_of_lt (RxRegs.turnsLeft_afterByte_lt b hs h)
    | timeout => exact Nat.zero_le _
    | error => exact Nat.zero_le _
  · rw [State.deframerTurn_of_probe d hs]
    have hleft : s.rx.turnsLeft = 257 := by simp [RxRegs.turnsLeft, hs]
    rw [hleft]
    cases s.link.peekAnswer d with
    | ready b => exact Nat.le_refl 256
    | nothing => exact Nat.zero_le _
    | error => exact Nat.zero_le _
  · rw [State.deframerTurn_of_waits d hs]
    unfold RxRegs.turnsLeft
    cases hp : s.rx.state <;> simp_all [RxState.inFrame]

/-! ### Registers that agree -/

/-- The same payload bytes have been received (R97). -/
def RxRegs.SameBytes (r r' : RxRegs) : Prop :=
  r'.idx = r.idx ∧ r'.acc = r.acc ∧ Buf.take r'.buf r.idx.toNat = Buf.take r.buf r.idx.toNat

/-- RX_TYPE has written the same (R94). -/
def RxRegs.SameType (r r' : RxRegs) : Prop :=
  r'.wireType = r.wireType ∧ r'.kind = r.kind ∧ r'.hc = r.hc

/-- The registers that the deframer's rules have written since the DECODE hold the same, and a result has the
same record; RX_IDLE is before the DECODE. -/
def RxRegs.Agree (r r' : RxRegs) : Prop :=
  r'.state = r.state ∧ r'.tmo = r.tmo ∧
    match r.state with
    | .idle => False
    | .sync1 => r.SameBytes r'
    | .sync2 => r.SameBytes r'
    | .type => r.SameBytes r'
    | .probe => r.SameBytes r' ∧ r.SameType r'
    | .len => r.SameBytes r' ∧ r.SameType r' ∧ (r.kind ≠ .unknown → r'.size = r.size)
    | .payload => r.SameBytes r' ∧ r.SameType r' ∧ r'.size = r.size
    | .ck => r.SameBytes r' ∧ r.SameType r' ∧ r'.size = r.size
    | .done => r'.record = r.record
    | .failed => r'.record = r.record

theorem RxRegs.record_raise (r : RxRegs) (st : Status) (p : RxState) :
    (r.raise st p).record = .failure st p := by
  simp [RxRegs.record]

theorem RxRegs.record_finish (r : RxRegs) (st : Status) :
    (r.finish st).record = .packet st r.kind r.wireType r.hc r.size (Buf.take r.buf r.size.toNat) := by
  simp [RxRegs.record]

section Agree
variable {r r' : RxRegs}

theorem RxRegs.agree_raise (htmo : r'.tmo = r.tmo) (st : Status) (p : RxState) :
    (r.raise st p).Agree (r'.raise st p) :=
  ⟨rfl, htmo, (r'.record_raise st p).trans (r.record_raise st p).symm⟩

theorem RxRegs.agree_finish (htmo : r'.tmo = r.tmo) (htype : r.SameType r') (hsize : r'.size = r.size)
    (hbuf : Buf.take r'.buf r.size.toNat = Buf.take r.buf r.size.toNat) (st : Status) :
    (r.finish st).Agree (r'.finish st) := by
  obtain ⟨hwt, hkind, hhc⟩ := htype
  refine ⟨rfl, htmo, ?_⟩
  show (r'.finish st).record = (r.finish st).record
  rw [RxRegs.record_finish, RxRegs.record_finish, hwt, hkind, hhc, hsize, hbuf]

theorem RxRegs.agree_dispatch (kind3b : Bool) (t : Byte) (htmo : r'.tmo = r.tmo)
    (hbytes : r.SameBytes r') : (r.dispatch kind3b t).Agree (r'.dispatch kind3b t) := by
  simp only [RxRegs.dispatch]
  cases kindFor kind3b t with
  | none => exact ⟨rfl, htmo, hbytes, rfl, rfl, rfl⟩
  | some k =>
    simp only [RxRegs.dispatchKnown]
    split
    · rename_i hzero
      refine RxRegs.agree_finish ?_ ?_ ?_ ?_ .ok
      · exact htmo
      · exact ⟨rfl, rfl, rfl⟩
      · rfl
      · simp [hzero]
    · exact ⟨rfl, htmo, hbytes, ⟨rfl, rfl, rfl⟩, fun _ => rfl⟩

theorem RxRegs.agree_afterLenByte (b : Byte) (htmo : r'.tmo = r.tmo) (hbytes : r.SameBytes r')
    (htype : r.SameType r') (hsize : r.kind ≠ .unknown → r'.size = r.size) :
    (r.afterLenByte b).Agree (r'.afterLenByte b) := by
  obtain ⟨hwt, hkind, hhc⟩ := htype
  simp only [RxRegs.afterLenByte, hkind]
  cases hk : r.kind with
  | known k =>
    have hsize := hsize (by simp [hk])
    simp only [hsize, hhc]
    split
    · exact ⟨rfl, htmo, hbytes, ⟨hwt, rfl, rfl⟩, rfl⟩
    · exact RxRegs.agree_raise htmo _ _
  | unknown =>
    dsimp only
    split_ifs
    · exact RxRegs.agree_raise htmo _ _
    · exact ⟨rfl, htmo, hbytes, ⟨hwt, rfl, hhc⟩, rfl⟩
    · exact ⟨rfl, htmo, hbytes, ⟨hwt, rfl, hhc⟩, rfl⟩

/-- The byte stored goes behind the same bytes (R97). -/
theorem RxRegs.agree_afterPayloadByte (kind3b : Bool) (b : Byte) (hs : r.state = .payload)
    (hinv : r.Inv kind3b) (hstate : r'.state = r.state) (htmo : r'.tmo = r.tmo)
    (hbytes : r.SameBytes r') (htype : r.SameType r') (hsize : r'.size = r.size) :
    (r.afterPayloadByte b (r.buf.setIfInBounds r.idx.toNat b)).Agree
      (r'.afterPayloadByte b (r'.buf.setIfInBounds r'.idx.toNat b)) := by
  obtain ⟨hidx, hacc, hbuf⟩ := hbytes
  obtain ⟨hwt, hkind, hhc⟩ := htype
  have hlt := hinv.idx_lt hs
  simp only [RxRegs.Inv, hs] at hinv
  obtain ⟨-, -, hinside, -⟩ := hinv
  have hnext : (BitVec.ofNat 9 (r.idx.toNat + 1)).toNat = r.idx.toNat + 1 := by simp; omega
  have htake : Buf.take (r'.buf.setIfInBounds r.idx.toNat b) (BitVec.ofNat 9 (r.idx.toNat + 1)).toNat =
      Buf.take (r.buf.setIfInBounds r.idx.toNat b) (BitVec.ofNat 9 (r.idx.toNat + 1)).toNat := by
    rw [hnext, take_succ_of_write (write_of_lt r'.buf b hlt), take_succ_of_write (write_of_lt r.buf b hlt),
      hbuf]
  simp only [RxRegs.afterPayloadByte, hidx, hsize, hhc, hacc]
  split_ifs with hmore
  · refine ⟨hstate, htmo, ?_⟩
    simp only [hs]
    exact ⟨⟨rfl, rfl, htake⟩, ⟨hwt, hkind, rfl⟩, trivial⟩
  · exact ⟨rfl, htmo, ⟨rfl, rfl, htake⟩, ⟨hwt, hkind, rfl⟩, rfl⟩
  · have hlast : r.size.toNat = (BitVec.ofNat 9 (r.idx.toNat + 1)).toNat := by omega
    refine RxRegs.agree_finish ?_ ?_ ?_ ?_ .ok
    · exact htmo
    · exact ⟨hwt, hkind, rfl⟩
    · rfl
    · rw [← hlast] at htake
      exact htake

theorem RxRegs.agree_afterCkByte (kind3b : Bool) (b : Byte) (hs : r.state = .ck)
    (hinv : r.Inv kind3b) (htmo : r'.tmo = r.tmo)
    (hbytes : r.SameBytes r') (htype : r.SameType r') (hsize : r'.size = r.size) :
    (r.afterCkByte b).Agree (r'.afterCkByte b) := by
  obtain ⟨-, hacc, hbuf⟩ := hbytes
  simp only [RxRegs.Inv, hs] at hinv
  obtain ⟨-, -, -, hidx, -⟩ := hinv
  simp only [RxRegs.afterCkByte, hacc]
  split
  · exact RxRegs.agree_finish htmo htype hsize (hidx ▸ hbuf) .ok
  · exact RxRegs.agree_raise htmo _ _

/-- The same byte read keeps the registers in agreement. -/
theorem RxRegs.Agree.afterByte (h : r.Agree r') (kind3b : Bool) (b : Byte)
    (hs : r.state.reads = true) (hinv : r.Inv kind3b) :
    (r.afterByte kind3b b).Agree (r'.afterByte kind3b b) := by
  obtain ⟨hstate, htmo, h⟩ := h
  cases hp : r.state with
  | sync1 =>
    simp only [hp] at h
    rw [r.afterByte_sync1 kind3b hp, r'.afterByte_sync1 kind3b (hstate.trans hp)]
    dsimp only
    split
    · exact ⟨rfl, htmo, h⟩
    · exact RxRegs.agree_raise htmo _ _
  | sync2 =>
    simp only [hp] at h
    rw [r.afterByte_sync2 kind3b hp, r'.afterByte_sync2 kind3b (hstate.trans hp)]
    dsimp only
    split
    · exact ⟨rfl, htmo, h⟩
    · exact RxRegs.agree_raise htmo _ _
  | type =>
    simp only [hp] at h
    rw [r.afterByte_type kind3b hp, r'.afterByte_type kind3b (hstate.trans hp)]
    exact RxRegs.agree_dispatch kind3b b htmo h
  | len =>
    simp only [hp] at h
    obtain ⟨hbytes, htype, hsize⟩ := h
    rw [r.afterByte_len kind3b hp, r'.afterByte_len kind3b (hstate.trans hp)]
    exact RxRegs.agree_afterLenByte b htmo hbytes htype hsize
  | payload =>
    simp only [hp] at h
    obtain ⟨hbytes, htype, hsize⟩ := h
    rw [r.afterByte_payload kind3b hp, r'.afterByte_payload kind3b (hstate.trans hp)]
    exact RxRegs.agree_afterPayloadByte kind3b b hp hinv hstate htmo hbytes htype hsize
  | ck =>
    simp only [hp] at h
    obtain ⟨hbytes, htype, hsize⟩ := h
    rw [r.afterByte_ck kind3b hp, r'.afterByte_ck kind3b (hstate.trans hp)]
    exact RxRegs.agree_afterCkByte kind3b b hp hinv htmo hbytes htype hsize
  | _ => simp [hp, RxState.reads] at hs

theorem RxRegs.Agree.afterReadAnswer (h : r.Agree r') (kind3b : Bool) (a : ReadAnswer)
    (hs : r.state.reads = true) (hinv : r.Inv kind3b) :
    (r.afterReadAnswer kind3b a).Agree (r'.afterReadAnswer kind3b a) := by
  have ⟨hstate, htmo, _⟩ := h
  cases a with
  | byte b => exact h.afterByte kind3b b hs hinv
  | timeout =>
    simp only [RxRegs.afterReadAnswer, hstate]
    exact RxRegs.agree_raise htmo _ _
  | error =>
    simp only [RxRegs.afterReadAnswer, hstate]
    exact RxRegs.agree_raise htmo _ _

theorem RxRegs.Agree.afterPeekAnswer (h : r.Agree r') (kind3b : Bool) (a : PeekAnswer)
    (hs : r.state = .probe) (hinv : r.Inv kind3b) :
    (r.afterPeekAnswer a).Agree (r'.afterPeekAnswer a) := by
  obtain ⟨-, htmo, h⟩ := h
  simp only [RxRegs.Inv, hs] at h hinv
  obtain ⟨hbytes, htype⟩ := h
  obtain ⟨-, -, -, hkind⟩ := hinv
  cases a with
  | nothing =>
    refine RxRegs.agree_finish ?_ ?_ ?_ ?_ _
    · exact htmo
    · exact htype
    · rfl
    · simp
  | ready b => exact ⟨rfl, htmo, hbytes, htype, fun hk => absurd hkind hk⟩
  | error => exact RxRegs.agree_raise htmo _ _

/-- A result that agrees is the same record. -/
theorem RxRegs.Agree.record_eq (h : r.Agree r') (hs : r.state = .done ∨ r.state = .failed) :
    r'.record = r.record := by
  obtain ⟨-, -, h⟩ := h
  rcases hs with hs | hs <;> simpa only [hs] using h

/-- Registers that agree with no turn left are a result. -/
theorem RxRegs.Agree.result (h : r.Agree r') (hleft : r.turnsLeft = 0) :
    r.state = .done ∨ r.state = .failed := by
  obtain ⟨-, -, h⟩ := h
  cases hs : r.state with
  | done => exact .inl rfl
  | failed => exact .inr rfl
  | idle => simp only [hs] at h
  | _ => exact absurd hleft (RxRegs.turnsLeft_pos (by simp [hs, RxState.inFrame])).ne'

end Agree

/-! ### Two machines after the same DECODE -/

/-- Two machines on the same Transport and configuration, whose deframers agree since the same DECODE. -/
structure Twins (s s' : State) : Prop where
  cfg : s'.cfg = s.cfg
  link : s'.link = s.link
  released : s.cfg.rst = false
  inv : s.rx.Inv s.cfg.kind3b
  inv' : s'.rx.Inv s.cfg.kind3b
  agree : s.rx.Agree s'.rx

/-- The deframers' turns with the same draw get the same answer and leave the same Transport. -/
theorem Twins.turn_link_agree {s s' : State} (h : Twins s s') (d : Draw) :
    (s'.deframerTurn d).link = (s.deframerTurn d).link ∧
      (s.deframerTurn d).rx.Agree (s'.deframerTurn d).rx := by
  obtain ⟨hcfg, hlink, -, hinv, -, hagree⟩ := h
  have ⟨hstate, htmo, _⟩ := hagree
  rcases s.rx.state.reads_or_probe_or_waits with hs | hs | hs
  · rw [State.deframerTurn_of_reads d hs, State.deframerTurn_of_reads d (hstate ▸ hs)]
    simp only [hcfg, hlink, htmo]
    exact ⟨trivial, hagree.afterReadAnswer _ _ hs hinv⟩
  · rw [State.deframerTurn_of_probe d hs, State.deframerTurn_of_probe d (hstate.trans hs)]
    simp only [hcfg, hlink]
    exact ⟨trivial, hagree.afterPeekAnswer _ _ hs hinv⟩
  · rw [State.deframerTurn_of_waits d hs, State.deframerTurn_of_waits d (hstate ▸ hs)]
    exact ⟨hlink, hagree⟩

theorem Twins.turn {s s' : State} (h : Twins s s') (d : Draw) :
    Twins (s.deframerTurn d) (s'.deframerTurn d) := by
  have hframe : (s.deframerTurn d).cfg = s.cfg := (s.deframerTurn_frame d).2
  have hframe' : (s'.deframerTurn d).cfg = s'.cfg := (s'.deframerTurn_frame d).2
  exact
    { cfg := by rw [hframe, hframe', h.cfg]
      link := (h.turn_link_agree d).1
      released := by rw [hframe, h.released]
      inv := by
        rw [hframe]
        exact State.deframerTurn_inv d h.inv
      inv' := by
        rw [hframe, ← h.cfg]
        exact State.deframerTurn_inv d (h.cfg.symm ▸ h.inv')
      agree := (h.turn_link_agree d).2 }

/-- The deframers' turns off the same tape, whatever is drawn: the twins stay twins, and every turn brings their
result nearer. -/
theorem Twins.run (ds : List Draw) (rest : List Input) : ∀ {s s' : State}, Twins s s' →
    s.tape = ds.map .deframer ++ rest → s'.tape = s.tape →
    ∃ t t', Sys2Proof.core.run ds.length s = .next t ∧ Sys2Proof.core.run ds.length s' = .next t' ∧
      Twins t t' ∧ t.rx.turnsLeft ≤ s.rx.turnsLeft - ds.length := by
  induction ds with
  | nil => exact fun h _ _ => ⟨_, _, run_zero _, run_zero _, h, Nat.le_refl _⟩
  | cons d ds ih =>
    intro s s' h htape htape'
    have hoff : Twins { s with tape := ds.map .deframer ++ rest }
        { s' with tape := ds.map .deframer ++ rest } := ⟨h.cfg, h.link, h.released, h.inv, h.inv', h.agree⟩
    have hstep := step_deframerTurn htape h.released h.inv
    have hstep' := step_deframerTurn (htape'.trans htape) (h.cfg.symm ▸ h.released)
      (h.cfg.symm ▸ h.inv')
    obtain ⟨t, t', hrun, hrun', htwins, hleft⟩ := ih (hoff.turn d)
      (State.deframerTurn_frame d).1
      ((State.deframerTurn_frame d).1.trans
        (State.deframerTurn_frame (s := { s with tape := _ }) d).1.symm)
    refine ⟨t, t', (run_succ s _ _ hstep).trans hrun, (run_succ s' _ _ hstep').trans hrun', htwins, ?_⟩
    have hturn := State.turnsLeft_deframerTurn_le d hoff.inv
    simp only [List.length_cons]
    dsimp only at hturn
    omega

/-- The state a DECODE of timeout `n` starts its frame in (R91), its offer and its move gone. -/
def State.decoding (s : State) (n : Timeout) (rest : List Input) : State :=
  { s with
    tape := rest
    rx := { s.rx with tmo := n, acc := 0, idx := 0, state := .sync1 }
    ports := s.ports.take .rxCmd }

theorem step_decode {s : State} {n : Timeout} {cmds : List Timeout} {rest : List Input}
    (htape : s.tape = .host .rxCmd :: rest) (hcmd : s.ports.rxCmd = n :: cmds)
    (hidle : s.rx.state = .idle) (hrst : s.cfg.rst = false) : step s = .next (s.decoding n rest) := by
  rw [step_host s _ rest htape]
  have hfetch : fetchOffer .rxCmd { s with tape := rest } = .run (.decode n) { s with tape := rest } :=
    fetchOffer_of_decode (o := .rxCmd n) (by simp [Ports.head?, hcmd]) rfl
  rw [hfetch, Fetched.outcome_run]
  simp only [exec, execDecode, hidle, hrst, and_self, if_true, State.decoding]

/-- After the same DECODE the deframers agree, whatever their registers held (R27). -/
theorem twins_decoding {s s' : State} (hcfg : s'.cfg = s.cfg) (hlink : s'.link = s.link)
    (hrst : s.cfg.rst = false) (n : Timeout) (rest : List Input) :
    Twins (s.decoding n rest) (s'.decoding n rest) :=
  ⟨hcfg, hlink, hrst, ⟨rfl, rfl⟩, ⟨rfl, rfl⟩, rfl, rfl, rfl, rfl,
    (take_buf_zero _).trans (take_buf_zero _).symm⟩

/-- Settles O32: the two machines are twins after the DECODE (`twins_decoding`), stay so through the turns
(`Twins.run`), and 260 turns are enough for a result. -/
theorem resultsDoNotDependOnUnwrittenRegisters :
    Obligations.ResultsDoNotDependOnUnwrittenRegisters := by
  unfold Obligations.ResultsDoNotDependOnUnwrittenRegisters
  intro s s' n tmo cmds rest hidle hrst _ hcmd hn htape hidle' hcfg hlink hports htape'
  have hstep := step_decode htape hcmd hidle hrst
  have hstep' := step_decode (htape'.trans htape) (hports ▸ hcmd) hidle' (hcfg ▸ hrst)
  obtain ⟨t, t', hrun, hrun', htwins, hleft⟩ :=
    (twins_decoding hcfg hlink hrst tmo (promptTurns n ++ rest)).run (List.replicate n .prompt) rest
      (by simp [State.decoding, promptTurns]) rfl
  simp only [List.length_replicate] at hrun hrun' hleft
  have hresult := htwins.agree.result (by
    have hstart : (s.decoding tmo (promptTurns n ++ rest)).rx.turnsLeft = 260 := rfl
    omega)
  have ⟨hstate, _, _⟩ := htwins.agree
  have hresult' : t'.rx.state = .done ∨ t'.rx.state = .failed := hstate ▸ hresult
  rw [Nat.add_comm 1 n]
  exact ⟨t, t', (run_succ s _ n hstep).trans hrun, (run_succ s' _ n hstep').trans hrun',
    t.rxResValid_iff.mpr hresult, t'.rxResValid_iff.mpr hresult',
    (htwins.agree.record_eq hresult).symm, by rw [htwins.link]⟩

end Sys2Proof.Machine

namespace Sys2Proof.Machine

/-!
### What a step does to the Transport (20_memory.md R29 to R37)

`LinkStep` says once what a step can do to the Transport: nothing but drive a level input, the remote sender's
bytes, or one transaction. The statements about the streams, the pushback slot and the history are read off it.
-/

section Transactions
variable (l : Transport)

theorem Transport.afterRead_of_byte (t : Timeout) {d : Draw} {b : Byte} (h : l.readAnswer d = .byte b) :
    l.afterRead t d =
      { l with
        pushback := none
        duty := false
        line := l.unread.tail
        rxLog := l.rxLog ++ [.read t (.byte b)] } := by
  simp only [Transport.afterRead, h]

theorem Transport.afterRead_of_no_byte (t : Timeout) {d : Draw} (h : ∀ b, l.readAnswer d ≠ .byte b) :
    l.afterRead t d = { l with duty := false, rxLog := l.rxLog ++ [.read t (l.readAnswer d)] } := by
  unfold Transport.afterRead
  split
  case h_1 b hb => exact absurd hb (h b)
  case h_2 => rfl

/-- A Write is no transaction on the receive side (R45). -/
@[simp] theorem Transport.afterWrite_rxLog (b : Byte) (a : WriteAnswer) :
    (l.afterWrite b a).rxLog = l.rxLog := by
  unfold Transport.afterWrite
  split <;> rfl

/-- A Write is one transaction on tx_write (R33). -/
theorem Transport.afterWrite_txLog (b : Byte) (a : WriteAnswer) :
    (l.afterWrite b a).txLog = l.txLog ++ [⟨b, l.writeAnswer a⟩] := by
  unfold Transport.afterWrite
  split <;> simp_all

/-- A Peek is one transaction on rx_peek (R33). -/
theorem Transport.afterPeek_rxLog (t : Nat) (d : Draw) :
    (l.afterPeek t d).rxLog = l.rxLog ++ [.peek t (l.peekAnswer d)] := by
  unfold Transport.afterPeek
  split <;> simp_all

/-- The byte in the pushback slot is the stream's first (R32, R36). -/
theorem Transport.unread_of_pushback {b : Byte} (h : l.pushback = some b) : l.unread = b :: l.line := by
  simp [Transport.unread, h]

/-- A Peek answers a byte only as the stream's first, and then owes it (R30, R32). -/
theorem Transport.afterPeek_of_ready (t : Nat) {d : Draw} {b : Byte} (h : l.peekAnswer d = .ready b) :
    l.unread.head? = some b ∧ (l.afterPeek t d).pushback = some b ∧ (l.afterPeek t d).duty = true := by
  rcases afterPeek_cases l t d with ⟨b', rest, -, ha, hu, he⟩ | ⟨ha, -⟩ | ⟨ha, -⟩ <;> rw [h] at ha <;>
    cases ha
  rw [hu, he]
  exact ⟨rfl, rfl, rfl⟩

/-- A Peek leaves a byte already in the slot there, and the duty with it (R30, R32). -/
theorem Transport.afterPeek_keeps_pushback (t : Nat) (d : Draw) {b : Byte} (h : l.pushback = some b) :
    (l.afterPeek t d).pushback = some b ∧ (l.duty = true → (l.afterPeek t d).duty = true) := by
  rcases afterPeek_cases l t d with ⟨b', rest, -, -, hu, he⟩ | ⟨-, he⟩ | ⟨-, he⟩ <;> rw [he]
  · have hfirst := (l.unread_of_pushback h).symm.trans hu
    cases hfirst
    exact ⟨rfl, fun _ => rfl⟩
  · exact ⟨h, id⟩
  · exact ⟨h, id⟩

/-- A Read with a byte in the slot: it answers that byte, or Error, or Timeout where no duty stands (R32, R35). -/
theorem Transport.afterRead_of_pushback (t : Timeout) (d : Draw) {b : Byte} (h : l.pushback = some b) :
    (l.readAnswer d = .byte b ∧ (l.afterRead t d).pushback = none ∧
      l.unread = b :: (l.afterRead t d).unread) ∨
    (l.readAnswer d = .error ∧ (l.afterRead t d).pushback = some b ∧
      (l.afterRead t d).unread = l.unread) ∨
    (l.readAnswer d = .timeout ∧ l.duty = false ∧ (l.afterRead t d).pushback = some b ∧
      (l.afterRead t d).unread = l.unread) := by
  have hunread := l.unread_of_pushback h
  rcases afterRead_cases l t d with ⟨b', rest, -, ha, hu, he⟩ | ⟨ha, hduty, he⟩ | ⟨ha, he⟩ <;> rw [he]
  · cases hunread.symm.trans hu
    exact .inl ⟨ha, rfl, hunread⟩
  · have hfree : l.duty = false := by
      by_contra hd
      simp [hduty (by simpa using hd)] at hunread
    exact .inr (.inr ⟨ha, hfree, h, rfl⟩)
  · exact .inr (.inl ⟨ha, h, rfl⟩)

end Transactions

/-- `LinkStep s l`: a step from `s` can leave the Transport `l`. -/
inductive LinkStep (s : State) : Transport → Prop where
  /-- at most a level input is driven (R15) -/
  | levels (isOpen avail : Bool) : LinkStep s { s.link with isOpen := isOpen, avail := avail }
  | arrive (bs : List Byte) (rest : List Input) (h : s.tape = .arrive bs :: rest) :
    LinkStep s { s.link with line := s.link.line ++ bs }
  | write (b : Byte) (a : WriteAnswer) : LinkStep s (s.link.afterWrite b a)
  | read (d : Draw) : LinkStep s (s.link.afterRead s.rx.tmo d)
  | peek (d : Draw) : LinkStep s (s.link.afterPeek s.cfg.peekTimeout d)

/-- What a step does to the Transport: level inputs and arriving bytes apart, at most one transaction (R33). -/
theorem step_link {s t : State} (h : step s = .next t) : LinkStep s t.link := by
  rcases step_cases s t h with ⟨-, rfl⟩ | ⟨i, rest, htape, hmove⟩
  · exact .levels t.link.isOpen t.link.avail
  · cases hmove with
    | arrive bs => exact .arrive bs rest htape
    | link isOpen => exact .levels isOpen s.link.avail
    | avail level => exact .levels s.link.isOpen level
    | txSync1 a => exact .write _ a
    | txSync2 a => exact .write _ a
    | txType a => exact .write _ a
    | txLen a => exact .write _ a
    | txPayload a _ b => exact .write b a
    | txCk a => exact .write _ a
    | readFailed d _ a hs ha hn =>
      subst ha
      have hno : ∀ b, s.link.readAnswer d ≠ .byte b := by
        rintro b hb
        simp [hb] at hn
      exact s.link.afterRead_of_no_byte s.rx.tmo hno ▸ .read d
    | readByte d _ b line r _ _ ha hu =>
      have hline : line = s.link.unread.tail := (congrArg List.tail hu).symm
      subst hline
      exact s.link.afterRead_of_byte s.rx.tmo ha ▸ .read d
    | probe d => exact .peek d
    | _ => exact .levels s.link.isOpen s.link.avail

/-- Settles O27: the draws' answers on an open link, and `answers_closed`; no Read leaves a duty behind. -/
theorem transportAnswersFollowTheStream : Obligations.TransportAnswersFollowTheStream := by
  unfold Obligations.TransportAnswersFollowTheStream
  intro l
  refine ⟨fun hopen => ⟨fun hu => ?_, fun b rest hu => ?_, fun hduty => ?_, fun n d => ?_, ?_⟩,
    answers_closed l⟩
  · simp [readAnswer_prompt l hopen, Transport.peekAnswer, hopen, hu]
  · simp [readAnswer_prompt l hopen, Transport.peekAnswer, hopen, hu]
  · simp [Transport.readAnswer, hopen, hduty]
  · simp [Transport.readAnswer, hopen]
  · simp [Transport.readAnswer, Transport.peekAnswer, Transport.writeAnswer, hopen]

/-- Settles O26: of `LinkStep`'s cases only a Read takes the byte out of the slot or ends the duty. -/
theorem pushbackDutyIsKept : Obligations.PushbackDutyIsKept := by
  unfold Obligations.PushbackDutyIsKept
  refine ⟨fun l n d b h => ?_, fun l d b hp hd => readAnswer_duty l d b hd hp, fun s t b hp hstep => ?_⟩
  · obtain ⟨hhead, hslot, hduty⟩ := l.afterPeek_of_ready n h
    exact ⟨hhead, l.afterPeek_unread n d, hslot, hduty⟩
  · generalize t.link = l, step_link hstep = hlink
    cases hlink with
    | levels => exact .inl ⟨hp, id, [], by simp⟩
    | arrive => exact .inl ⟨hp, id, [], by simp⟩
    | write b' a => exact .inl ⟨by simpa using hp, by simp, [], by simp⟩
    | read d =>
      refine .inr ⟨s.link.readAnswer d, s.link.afterRead_rxLog _ d, s.link.afterRead_duty _ d, ?_⟩
      exact s.link.afterRead_of_pushback s.rx.tmo d hp
    | peek d =>
      obtain ⟨hslot, hduty⟩ := s.link.afterPeek_keeps_pushback s.cfg.peekTimeout d hp
      exact .inl ⟨hslot, hduty, _, s.link.afterPeek_rxLog _ d, by simp [RxTransaction.isRead]⟩

/-- Settles O43: each case of `LinkStep` makes no transaction or one. -/
theorem oneTransactionPerStep : Obligations.OneTransactionPerStep := by
  unfold Obligations.OneTransactionPerStep
  intro s t hstep
  generalize t.link = l, step_link hstep = hlink
  cases hlink with
  | levels => exact ⟨[], [], by simp⟩
  | arrive => exact ⟨[], [], by simp⟩
  | write b a => exact ⟨[], [_], by simp, s.link.afterWrite_txLog b a, le_rfl⟩
  | read d => exact ⟨[_], [], s.link.afterRead_rxLog s.rx.tmo d, by simp, le_rfl⟩
  | peek d => exact ⟨[_], [], s.link.afterPeek_rxLog s.cfg.peekTimeout d, by simp, le_rfl⟩

/-- Settles O44: of `LinkStep`'s cases only a Write touches the sink, and `afterWrite_cases` says how. -/
theorem sinkGainsTheAnsweredWrites : Obligations.SinkGainsTheAnsweredWrites := by
  unfold Obligations.SinkGainsTheAnsweredWrites
  intro s t hstep
  generalize t.link = l, step_link hstep = hlink
  cases hlink with
  | write b a =>
    rcases afterWrite_cases s.link b a with ⟨-, -, -, he⟩ | ⟨-, he⟩ <;> rw [he]
    · exact ⟨[⟨b, .ok⟩], rfl, rfl⟩
    · exact ⟨[⟨b, .error⟩], rfl, by simp⟩
  | _ => exact ⟨[], by simp⟩

/-- Settles O45: of `LinkStep`'s cases only a Read answered with a byte and the remote sender's bytes change the
stream; the sender's move is made by the fetch itself. -/
theorem streamIsConsumedInOrder : Obligations.StreamIsConsumedInOrder := by
  unfold Obligations.StreamIsConsumedInOrder
  refine ⟨fun s t hstep => ?_, fun s bs rest htape => ?_⟩
  · generalize t.link = l, step_link hstep = hlink
    cases hlink with
    | levels => exact .inl ⟨rfl, by simp⟩
    | arrive bs rest htape =>
      exact .inr (.inr ⟨bs, rest, htape, (List.append_assoc _ _ _).symm, rfl⟩)
    | write b a => exact .inl ⟨s.link.afterWrite_unread b a, by simp⟩
    | read d =>
      rcases afterRead_cases s.link s.rx.tmo d with ⟨b, line, -, -, hu, he⟩ | ⟨-, -, he⟩ | ⟨-, he⟩ <;>
        rw [he]
      · exact .inr (.inl ⟨b, hu, rfl⟩)
      · exact .inl ⟨rfl, by simp⟩
      · exact .inl ⟨rfl, by simp⟩
    | peek d => exact .inl ⟨s.link.afterPeek_unread _ d, by simp [Transport.afterPeek_rxLog]⟩
  · exact ⟨_, step_cons s _ rest htape, (List.append_assoc _ _ _).symm, rfl⟩

/-- Over a run the history of Reads and Peeks only grows (R33). -/
theorem run_rxLog_grows {n : Nat} : ∀ {s t : State}, Sys2Proof.core.run n s = .next t →
    ∃ r, t.link.rxLog = s.link.rxLog ++ r := by
  induction n with
  | zero =>
    intro s t hrun
    cases hrun
    exact ⟨[], (List.append_nil _).symm⟩
  | succ n ih =>
    intro s t hrun
    obtain ⟨m, hstep, hrun⟩ := run_succ_inv s t n hrun
    obtain ⟨r, -, hr, -⟩ := oneTransactionPerStep s m hstep
    obtain ⟨r', hr'⟩ := ih hrun
    exact ⟨r ++ r', by rw [hr', hr, List.append_assoc]⟩

/-- Settles O58, by induction on the steps of the run: until the first Read the slot and the duty stand
(`pushbackDutyIsKept`), and what the run makes after it is not looked at. -/
theorem theNextReadAfterAPeekAnswersItsByte : Obligations.TheNextReadAfterAPeekAnswersItsByte := by
  unfold Obligations.TheNextReadAfterAPeekAnswersItsByte
  intro n
  induction n with
  | zero =>
    intro s t b _ _ hrun
    cases hrun
    exact ⟨[], by simp⟩
  | succ n ih =>
    intro s t b hp hd hrun
    obtain ⟨m, hstep, hrun⟩ := run_succ_inv s t n hrun
    obtain ⟨-, -, hkept⟩ := pushbackDutyIsKept
    rcases hkept s m b hp hstep with ⟨hp', hd', r, hr, hnone⟩ | ⟨a, ha, -, hanswer⟩
    · obtain ⟨r', hr', hfirst⟩ := ih m t b hp' (hd' hd) hrun
      refine ⟨r ++ r', by rw [hr', hr, List.append_assoc], fun x hx => hfirst x ?_⟩
      have hskip : r.find? RxTransaction.isRead = none := by simpa using hnone
      simpa [List.find?_append, hskip] using hx
    · obtain ⟨r', hr'⟩ := run_rxLog_grows hrun
      refine ⟨.read s.rx.tmo a :: r', by rw [hr', ha, List.append_assoc]; rfl, fun x hx => ?_⟩
      cases hx
      rcases hanswer with ⟨rfl, -⟩ | ⟨rfl, -⟩ | ⟨-, hfree, -⟩
      · exact ⟨_, .inl rfl⟩
      · exact ⟨_, .inr rfl⟩
      · simp [hd] at hfree

end Sys2Proof.Machine

namespace Sys2Proof.Machine

/-!
### The engines share no register (10_state.md R44, R45, 60_exceptions.md R121)

Each engine has its side of the state: its registers, and of the Transport the streams and the history it works
on. A turn reads and writes its own side only, whatever the other side holds (`framerTurn_withTxSide`,
`deframerTurn_withRxSide`), so it leaves the other side as it is, and two turns commute.
-/

/-- The Transport with the transmit side of `m`. -/
def Transport.withTxSide (l m : Transport) : Transport := { l with sink := m.sink, txLog := m.txLog }

/-- The Transport with the receive side of `m`. -/
def Transport.withRxSide (l m : Transport) : Transport :=
  { l with pushback := m.pushback, duty := m.duty, line := m.line, rxLog := m.rxLog }

/-- The state with the framer and the transmit side of `x`. -/
def State.withTxSide (s x : State) : State := { s with tx := x.tx, link := s.link.withTxSide x.link }

/-- The state with the deframer and the receive side of `y`. -/
def State.withRxSide (s y : State) : State := { s with rx := y.rx, link := s.link.withRxSide y.link }

@[simp] theorem State.withTxSide_tx (s x : State) : (s.withTxSide x).tx = x.tx := rfl

@[simp] theorem State.withTxSide_cfg (s x : State) : (s.withTxSide x).cfg = s.cfg := rfl

@[simp] theorem State.withRxSide_rx (s y : State) : (s.withRxSide y).rx = y.rx := rfl

@[simp] theorem State.withRxSide_link (s y : State) : (s.withRxSide y).link = s.link.withRxSide y.link := rfl

@[simp] theorem State.withRxSide_cfg (s y : State) : (s.withRxSide y).cfg = s.cfg := rfl

section Transport
variable {l m : Transport} (hopen : l.isOpen = m.isOpen)
include hopen

theorem Transport.writeAnswer_withTxSide (a : WriteAnswer) :
    (l.withTxSide m).writeAnswer a = m.writeAnswer a := by
  simp [Transport.writeAnswer, Transport.withTxSide, hopen]

theorem Transport.afterWrite_withTxSide (b : Byte) (a : WriteAnswer) :
    (l.withTxSide m).afterWrite b a = l.withTxSide (m.afterWrite b a) := by
  simp only [Transport.afterWrite, writeAnswer_withTxSide hopen]
  cases m.writeAnswer a <;> rfl

theorem Transport.readAnswer_withRxSide (d : Draw) : (l.withRxSide m).readAnswer d = m.readAnswer d := by
  simp only [Transport.readAnswer, Transport.withRxSide, hopen]
  rfl

theorem Transport.peekAnswer_withRxSide (d : Draw) : (l.withRxSide m).peekAnswer d = m.peekAnswer d := by
  simp only [Transport.peekAnswer, Transport.withRxSide, hopen]
  rfl

theorem Transport.afterRead_withRxSide (t : Timeout) (d : Draw) :
    (l.withRxSide m).afterRead t d = l.withRxSide (m.afterRead t d) := by
  simp only [Transport.afterRead, readAnswer_withRxSide hopen]
  cases m.readAnswer d <;> rfl

theorem Transport.afterPeek_withRxSide (t : Nat) (d : Draw) :
    (l.withRxSide m).afterPeek t d = l.withRxSide (m.afterPeek t d) := by
  simp only [Transport.afterPeek, peekAnswer_withRxSide hopen]
  cases m.peekAnswer d <;> rfl

end Transport

section FramerTurn
variable {s x : State} (hopen : s.link.isOpen = x.link.isOpen)
include hopen

theorem State.sendByte_withTxSide (a : WriteAnswer) (b : Byte) (r : TxRegs) :
    (s.withTxSide x).sendByte a b r = s.withTxSide (x.sendByte a b r) := by
  simp only [State.sendByte, State.withTxSide, Transport.afterWrite_withTxSide hopen,
    Transport.writeAnswer_withTxSide hopen]

theorem txStep_withTxSide (a : WriteAnswer) :
    txStep a (s.withTxSide x) = mapNext s.withTxSide (txStep a x) := by
  simp only [txStep, txSync1Step, txSync2Step, txTypeStep, txLenStep, txPayloadStep, txCkStep,
    State.withTxSide_tx, State.sendByte_withTxSide hopen]
  cases x.tx.state with
  | payload =>
    dsimp only
    cases x.tx.buf.read x.tx.idx.toNat <;> rfl
  | _ => rfl

/-- The framer's turn reads nothing but its own side, rst and link_open, and writes its own side. -/
theorem framerTurn_withTxSide (hcfg : s.cfg = x.cfg) (a : WriteAnswer) :
    (fetchInput (.framer a) (s.withTxSide x)).outcome =
      mapNext s.withTxSide (fetchInput (.framer a) x).outcome := by
  simp only [fetchInput, State.withTxSide_cfg, hcfg]
  split
  · rfl
  · exact txStep_withTxSide hopen a

end FramerTurn

section DeframerTurn
variable {s y : State} (hopen : s.link.isOpen = y.link.isOpen)
include hopen

theorem State.receiveByte_withRxSide (d : Draw) (g : Byte → RxRegs) :
    (s.withRxSide y).receiveByte d g = s.withRxSide (y.receiveByte d g) := by
  simp only [State.receiveByte, State.afterRead, State.withRxSide,
    Transport.afterRead_withRxSide hopen, Transport.readAnswer_withRxSide hopen]

theorem rxPayloadStep_withRxSide (d : Draw) :
    rxPayloadStep d (s.withRxSide y) = mapNext s.withRxSide (rxPayloadStep d y) := by
  simp only [rxPayloadStep, State.withRxSide_rx, State.withRxSide_link,
    Transport.readAnswer_withRxSide hopen, State.receiveByte_withRxSide hopen]
  cases y.link.readAnswer d with
  | byte b =>
    dsimp only
    cases y.rx.buf.write y.rx.idx.toNat b <;> rfl
  | _ => rfl

theorem rxProbeStep_withRxSide (hcfg : s.cfg = y.cfg) (d : Draw) :
    rxProbeStep d (s.withRxSide y) = s.withRxSide (rxProbeStep d y) := by
  simp only [rxProbeStep_eq, State.withRxSide, Transport.afterPeek_withRxSide hopen,
    Transport.peekAnswer_withRxSide hopen, hcfg]

theorem rxStep_withRxSide (hcfg : s.cfg = y.cfg) (d : Draw) :
    rxStep d (s.withRxSide y) = mapNext s.withRxSide (rxStep d y) := by
  simp only [rxStep, rxSync1Step, rxSync2Step, rxLenStep, rxCkStep, State.withRxSide_rx,
    State.receiveByte_withRxSide hopen, rxPayloadStep_withRxSide hopen,
    rxProbeStep_withRxSide hopen hcfg]
  cases y.rx.state <;> rfl

/-- The deframer's turn reads nothing but its own side, the configuration and link_open, and writes its own
side. -/
theorem deframerTurn_withRxSide (hcfg : s.cfg = y.cfg) (d : Draw) :
    (fetchInput (.deframer d) (s.withRxSide y)).outcome =
      mapNext s.withRxSide (fetchInput (.deframer d) y).outcome := by
  by_cases hrst : y.cfg.rst = true
  · simp [fetchInput, hcfg, hrst]
  · by_cases htype : y.rx.state = .type
    · simp only [fetchInput, State.withRxSide_cfg, State.withRxSide_rx, hcfg, if_neg hrst, htype, if_true,
        fetchHeader_outcome, State.receiveByte_withRxSide hopen, mapNext_next]
    · simpa [fetchInput, hcfg, hrst, htype] using rxStep_withRxSide hopen hcfg d

end DeframerTurn

theorem mapNext_eq_next_iff {f : State → State} {o : Host.Outcome State Fault Refusal} {t : State} :
    mapNext f o = .next t ↔ ∃ m, o = .next m ∧ t = f m := by
  cases o <;> simp [mapNext, eq_comm]

/-- The framer's turn leaves everything but its own side as it is. -/
theorem framerTurn_frame {s t : State} {a : WriteAnswer}
    (h : (fetchInput (.framer a) s).outcome = .next t) : t = s.withTxSide t := by
  have hlocal := framerTurn_withTxSide (s := s) (x := s) rfl rfl a
  rw [h] at hlocal
  exact Host.Outcome.next.inj (h.symm.trans hlocal)

/-- The deframer's turn leaves everything but its own side as it is. -/
theorem deframerTurn_frame {s t : State} {d : Draw}
    (h : (fetchInput (.deframer d) s).outcome = .next t) : t = s.withRxSide t := by
  have hlocal := deframerTurn_withRxSide (s := s) (y := s) rfl rfl d
  rw [h] at hlocal
  exact Host.Outcome.next.inj (h.symm.trans hlocal)

/-- Settles O46: a turn's next state differs from the state before it on the engine's own side only
(`framerTurn_frame`, `deframerTurn_frame`). -/
theorem enginesShareNoRegister : Obligations.EnginesShareNoRegister := by
  unfold Obligations.EnginesShareNoRegister
  intro s t rest hstep
  refine ⟨fun a htape => ?_, fun d htape => ?_⟩
  · rw [step_cons s _ rest htape] at hstep
    rw [framerTurn_frame hstep]
    exact ⟨rfl, rfl, rfl, rfl, rfl, rfl, rfl, rfl, rfl, rfl, rfl⟩
  · rw [step_cons s _ rest htape] at hstep
    rw [deframerTurn_frame hstep]
    exact ⟨rfl, rfl, rfl, rfl, rfl, rfl, rfl, rfl, rfl⟩

/-- A run of two moves of which each updates its own part of the state (the first by `f`, the second by `g`) as
it does when it is made alone. -/
theorem run_two_local_iff {s : State} {i j : Input} {rest : List Input} {f g : State → State → State}
    (hfirst : (fetchInput i { s with tape := j :: rest }).outcome =
      mapNext (f { s with tape := j :: rest }) (fetchInput i { s with tape := rest }).outcome)
    (hsecond : ∀ x, step (f { s with tape := j :: rest } x) =
      mapNext (g (f { s with tape := rest } x)) (fetchInput j { s with tape := rest }).outcome)
    (t : State) :
    Sys2Proof.core.run 2 { s with tape := i :: j :: rest } = .next t ↔
      ∃ x y, (fetchInput i { s with tape := rest }).outcome = .next x ∧
        (fetchInput j { s with tape := rest }).outcome = .next y ∧ t = g (f { s with tape := rest } x) y := by
  have hstep : step { s with tape := i :: j :: rest } = _ := (step_cons _ i (j :: rest) rfl).trans hfirst
  constructor
  · intro hrun
    obtain ⟨m, hm, hrun⟩ := run_succ_inv _ _ _ hrun
    obtain ⟨t', ht, hrun⟩ := run_succ_inv _ _ _ hrun
    cases hrun
    obtain ⟨x, hx, rfl⟩ := mapNext_eq_next_iff.mp (hstep.symm.trans hm)
    obtain ⟨y, hy, rfl⟩ := mapNext_eq_next_iff.mp ((hsecond x).symm.trans ht)
    exact ⟨x, y, hx, hy, rfl⟩
  · rintro ⟨x, y, hx, hy, rfl⟩
    rw [run_succ _ _ 1 (hstep.trans (mapNext_eq_next_iff.mpr ⟨x, hx, rfl⟩)),
      run_succ _ _ 0 ((hsecond x).trans (mapNext_eq_next_iff.mpr ⟨y, hy, rfl⟩)), run_zero]

/-- Framer first: each side is left as its own turn alone leaves it. -/
theorem run_framer_deframer_iff (s t : State) (a : WriteAnswer) (d : Draw) (rest : List Input) :
    Sys2Proof.core.run 2 { s with tape := .framer a :: .deframer d :: rest } = .next t ↔
      ∃ x y, (fetchInput (.framer a) { s with tape := rest }).outcome = .next x ∧
        (fetchInput (.deframer d) { s with tape := rest }).outcome = .next y ∧
        t = (State.withTxSide { s with tape := rest } x).withRxSide y :=
  run_two_local_iff
    (framerTurn_withTxSide (s := { s with tape := .deframer d :: rest })
      (x := { s with tape := rest }) rfl rfl a)
    (fun x => (step_cons _ _ rest rfl).trans
      (deframerTurn_withRxSide (s := State.withTxSide { s with tape := rest } x)
        (y := { s with tape := rest }) rfl rfl d)) t

/-- Deframer first: the same. -/
theorem run_deframer_framer_iff (s t : State) (a : WriteAnswer) (d : Draw) (rest : List Input) :
    Sys2Proof.core.run 2 { s with tape := .deframer d :: .framer a :: rest } = .next t ↔
      ∃ y x, (fetchInput (.deframer d) { s with tape := rest }).outcome = .next y ∧
        (fetchInput (.framer a) { s with tape := rest }).outcome = .next x ∧
        t = (State.withRxSide { s with tape := rest } y).withTxSide x :=
  run_two_local_iff
    (deframerTurn_withRxSide (s := { s with tape := .framer a :: rest })
      (y := { s with tape := rest }) rfl rfl d)
    (fun y => (step_cons _ _ rest rfl).trans
      (framerTurn_withTxSide (s := State.withRxSide { s with tape := rest } y)
        (x := { s with tape := rest }) rfl rfl a)) t

/-- The two sides are disjoint. -/
theorem State.withTxSide_withRxSide_comm (s x y : State) :
    (s.withTxSide x).withRxSide y = (s.withRxSide y).withTxSide x := rfl

/-- Settles O47: in either order each side is left as its own turn leaves it, and the sides are disjoint. -/
theorem engineTurnsCommute : Obligations.EngineTurnsCommute := by
  unfold Obligations.EngineTurnsCommute
  intro s t a d rest
  rw [run_framer_deframer_iff, run_deframer_framer_iff, exists_comm]
  simp only [State.withTxSide_withRxSide_comm, and_left_comm]

end Sys2Proof.Machine

namespace Sys2Proof.Machine

/-!
### Accepted records, a closed link, and rx_avail (20_memory.md R34, R38)
-/

/-- The host's variables change only by the handshake that accepts a result (R38, R85, R101). -/
theorem Move.vars_cases {i : Input} {s t : State} (hm : Move i s t) :
    t.ports.vars = s.ports.vars ∨
      (∃ v r, i = .host .txDone ∧ s.ports.txDone.head? = some v ∧ s.tx.state = .done ∧
        t.ports.vars = writeVar v r s.ports.vars) ∨
      (∃ v r, i = .host .rxRes ∧ s.ports.rxRes.head? = some v ∧
        (s.rx.state = .done ∨ s.rx.state = .failed) ∧ t.ports.vars = writeVar v r s.ports.vars) := by
  cases hm with
  | offer o => exact .inl (s.ports.place_vars o)
  | txdone _ v rest hc hs => exact .inr (.inl ⟨v, _, rfl, by rw [hc]; rfl, hs, rfl⟩)
  | rxres _ v rest hc hs => exact .inr (.inr ⟨v, _, rfl, by rw [hc]; rfl, hs, rfl⟩)
  | _ => exact .inl rfl

/-- A record written into one variable is what makes another read of that variable, and of no other. -/
theorem eq_of_readVar_writeVar_ne {v w : Nat} {r : HostRecord} {vars : List (Nat × HostRecord)}
    (h : readVar (writeVar v r vars) w ≠ readVar vars w) : w = v :=
  Decidable.byContradiction fun hn => h (readVar_writeVar_other v w r vars hn)

/-- Settles O52: the two handshakes of `Move.vars_cases` write the variable first in line and no other. -/
theorem acceptedRecordsStay : Obligations.AcceptedRecordsStay := by
  unfold Obligations.AcceptedRecordsStay
  intro s t v hstep hne
  rcases step_cases s t hstep with ⟨-, rfl⟩ | ⟨i, rest, htape, hmove⟩
  · exact absurd rfl hne
  · rcases hmove.vars_cases with hvars | ⟨w, r, rfl, hw, hs, hvars⟩ | ⟨w, r, rfl, hw, hs, hvars⟩ <;>
      rw [hvars] at hne
    · exact absurd rfl hne
    · cases eq_of_readVar_writeVar_ne hne
      exact .inl ⟨rest, htape, hw, hs⟩
    · cases eq_of_readVar_writeVar_ne hne
      exact .inr ⟨rest, htape, hw, hs⟩

section Turns
variable {s : State} {rest : List Input}

/-- A reading step without a byte raises TRANSPORT_FAILURE, whatever it would do with one (R99). -/
theorem receiveByte_of_no_byte {d : Draw} (hno : ∀ b, s.link.readAnswer d ≠ .byte b)
    (g : Byte → RxRegs) : s.receiveByte d g = s.readFailed s.tape (s.link.readAnswer d) := by
  rcases receiveByte_cases s d g with ⟨b, -, -, hb, -⟩ | ⟨a, -, rfl, he⟩
  · exact absurd hb (hno b)
  · exact he

theorem rxPayloadStep_of_no_byte {d : Draw} (hno : ∀ b, s.link.readAnswer d ≠ .byte b) :
    rxPayloadStep d s = .next (s.receiveByte d fun _ => s.rx) := by
  unfold rxPayloadStep
  split
  · rename_i b hb
    exact absurd hb (hno b)
  · rfl

/-- The deframer's turn in a reading state, when its Read answers no byte (R99). -/
theorem step_readFailed {d : Draw} (htape : s.tape = .deframer d :: rest) (hrst : s.cfg.rst = false)
    (hs : s.rx.state.reads = true) (hno : ∀ b, s.link.readAnswer d ≠ .byte b) :
    step s = .next (s.readFailed rest (s.link.readAnswer d)) := by
  have hfail (g : Byte → RxRegs) := receiveByte_of_no_byte (s := { s with tape := rest }) hno g
  cases hstate : s.rx.state with
  | type =>
    rw [step_deframer_type s d rest htape hrst hstate, fetchHeader_outcome]
    exact congrArg _ (hfail _)
  | payload =>
    rw [step_deframer s d rest htape hrst (by simp [hstate])]
    simp only [rxStep, hstate]
    exact (rxPayloadStep_of_no_byte (s := { s with tape := rest }) hno).trans (congrArg _ (hfail _))
  | sync1 | sync2 | len | ck =>
    rw [step_deframer s d rest htape hrst (by simp [hstate])]
    simp only [rxStep, hstate]
    exact congrArg _ (hfail _)
  | idle | probe | done | failed => simp [hstate, RxState.reads] at hs

/-- The deframer's turn in RX_PROBE (R95). -/
theorem step_probe {d : Draw} (htape : s.tape = .deframer d :: rest) (hrst : s.cfg.rst = false)
    (hs : s.rx.state = .probe) :
    step s = .next
      { s with
        tape := rest
        link := s.link.afterPeek s.cfg.peekTimeout d
        rx := s.rx.afterPeekAnswer (s.link.peekAnswer d) } := by
  rw [step_deframer s d rest htape hrst (by simp [hs])]
  simp only [rxStep, hs, rxProbeStep_eq]

/-- The framer's turn in a sending state is one Write (R33, R77 to R82). -/
theorem txStep_sends (a : WriteAnswer) (hs : s.tx.state.sends = true) (hidx : s.tx.idx.toNat < 256) :
    ∃ b r, txStep a s = .next (s.sendByte a b r) := by
  cases hstate : s.tx.state with
  | payload =>
    obtain ⟨b, hb⟩ := read_isSome s.tx.buf s.tx.idx.toNat hidx
    exact ⟨b, s.tx.afterPayloadByte b, by simp only [txStep, hstate, txPayloadStep, hb]⟩
  | sync1 | sync2 | type | len | ck =>
    simp only [txStep, hstate]
    exact ⟨_, _, rfl⟩
  | idle | done => simp [hstate, TxState.sends] at hs

/-- A Write on a closed link ends the frame (R34, R83). -/
theorem sendByte_closed (hclosed : s.link.isOpen = false) (a : WriteAnswer) (b : Byte) (r : TxRegs) :
    s.sendByte a b r = s.writeFailed s.tape b := by
  rcases sendByte_cases s a b r with ⟨-, hopen, -⟩ | ⟨-, he⟩
  · simp [hclosed] at hopen
  · exact he

/-- On a closed link a Peek leaves the slot as it is (R30, R34). -/
theorem Transport.afterPeek_pushback_of_closed {l : Transport} (hclosed : l.isOpen = false) (t : Nat)
    (d : Draw) : (l.afterPeek t d).pushback = l.pushback := by
  obtain ⟨-, hpeek, -⟩ := answers_closed l hclosed d .ok
  simp only [Transport.afterPeek, hpeek]

end Turns

/-- A deframer state in a frame makes a Read or a Peek (R99, R95). -/
theorem RxState.reads_or_probe_of_inFrame {p : RxState} (h : p.inFrame = true) :
    p.reads = true ∨ p = .probe := by
  rcases p.reads_or_probe_or_waits with hreads | hprobe | hwaits
  · exact .inl hreads
  · exact .inr hprobe
  · simp [h] at hwaits

/-- Settles O53: every answer is Error (`answers_closed`), so a Read fails by `step_readFailed`, a Peek by
`step_probe` and a Write by `sendByte_closed`. -/
theorem closedLinkFailsEveryTransaction : Obligations.ClosedLinkFailsEveryTransaction := by
  unfold Obligations.ClosedLinkFailsEveryTransaction
  intro s rest hclosed hrst
  refine ⟨fun d htape hframe => ?_, fun a htape hsends hidx => ?_⟩
  · obtain ⟨hread, hpeek, -⟩ := answers_closed s.link hclosed d .ok
    rcases RxState.reads_or_probe_of_inFrame hframe with hreads | hprobe
    · exact ⟨_, step_readFailed htape hrst hreads (by simp [hread]), rfl, rfl, rfl, rfl⟩
    · refine ⟨_, step_probe htape hrst hprobe, ?_, s.link.afterPeek_unread _ d,
        Transport.afterPeek_pushback_of_closed hclosed _ d, rfl⟩
      rw [hpeek, hprobe]
      rfl
  · obtain ⟨b, r, hturn⟩ := txStep_sends (s := { s with tape := rest }) a hsends hidx
    rw [sendByte_closed (s := { s with tape := rest }) hclosed] at hturn
    exact ⟨_, (step_framer s a rest htape hrst).trans hturn, rfl, rfl, rfl⟩

/-! rx_avail belongs to no engine's side, so the turns keep it by their locality; no other move reads it. -/

section Avail
variable (s : State) (level : Bool)

theorem framerTurn_withAvail (a : WriteAnswer) :
    (fetchInput (.framer a) (s.withAvail level)).outcome =
      mapNext (·.withAvail level) (fetchInput (.framer a) s).outcome := by
  have hlocal := framerTurn_withTxSide (s := s.withAvail level) (x := s) rfl rfl a
  refine Eq.trans hlocal ?_
  cases hturn : (fetchInput (.framer a) s).outcome with
  | next t =>
    rw [framerTurn_frame hturn]
    rfl
  | _ => rfl

theorem deframerTurn_withAvail (d : Draw) :
    (fetchInput (.deframer d) (s.withAvail level)).outcome =
      mapNext (·.withAvail level) (fetchInput (.deframer d) s).outcome := by
  have hlocal := deframerTurn_withRxSide (s := s.withAvail level) (y := s) rfl rfl d
  refine Eq.trans hlocal ?_
  cases hturn : (fetchInput (.deframer d) s).outcome with
  | next t =>
    rw [deframerTurn_frame hturn]
    rfl
  | _ => rfl

theorem exec_withAvail (i : Instr) :
    exec i (s.withAvail level) = mapNext (·.withAvail level) (exec i s) := by
  cases i with
  | encode wireType hc payload =>
    simp only [exec, execEncode, apply_ite (mapNext _)]
    rfl
  | txdone dst =>
    simp only [exec, execTxdone, apply_ite (mapNext _)]
    rfl
  | decode timeout =>
    simp only [exec, execDecode, apply_ite (mapNext _)]
    rfl
  | rxres dst =>
    simp only [exec, execRxres, apply_ite (mapNext _)]
    rfl
  | _ => rfl

theorem fetchOffer_withAvail (p : HostPort) :
    (fetchOffer p (s.withAvail level)).outcome =
      mapNext (·.withAvail level) (fetchOffer p s).outcome := by
  have hports : (s.withAvail level).ports = s.ports := rfl
  have hcfg : (s.withAvail level).cfg = s.cfg := rfl
  simp only [fetchOffer, hports]
  cases s.ports.head? p with
  | none => rfl
  | some o =>
    simp only [fetchEncoded, hcfg]
    cases decode s.cfg.kind3b (.host o) with
    | rejected r => rfl
    | instr i => exact exec_withAvail s level i

/-- Every move but the one that drives rx_avail answers what it answers at any other level of it. -/
theorem fetchInput_withAvail (i : Input) (hi : ∀ b, i ≠ .avail b) :
    (fetchInput i (s.withAvail level)).outcome =
      mapNext (·.withAvail level) (fetchInput i s).outcome := by
  cases i with
  | framer a => exact framerTurn_withAvail s level a
  | deframer d => exact deframerTurn_withAvail s level d
  | host p => exact fetchOffer_withAvail s level p
  | rst b =>
    simp only [fetchInput, Fetched.outcome_did, mapNext_next, driveReset,
      apply_ite (State.withAvail · level)]
    rfl
  | config k n =>
    simp only [fetchInput, Fetched.outcome_did, driveConfig, apply_ite (mapNext _)]
    rfl
  | avail b => exact absurd rfl (hi b)
  | _ => rfl

theorem step_withAvail (hi : ∀ b rest, s.tape ≠ .avail b :: rest) :
    step (s.withAvail level) = mapNext (·.withAvail level) (step s) := by
  cases htape : s.tape with
  | nil => rw [step_nil s htape, step_nil (s.withAvail level) htape, mapNext_next]
  | cons i rest =>
    rw [step_cons s i rest htape, step_cons (s.withAvail level) i rest htape]
    exact fetchInput_withAvail { s with tape := rest } level i fun b h => hi b rest (h ▸ htape)

end Avail

/-- Settles O54: the step commutes with `State.withAvail` (`step_withAvail`). -/
theorem availIsNeverRead : Obligations.AvailIsNeverRead := by
  unfold Obligations.AvailIsNeverRead
  intro s b hi
  rw [step_withAvail s b hi]
  exact ⟨fun t h => by rw [h, mapNext_next], fun f h => by rw [h, mapNext_fault],
    fun r h => by rw [h, mapNext_refused]⟩

end Sys2Proof.Machine

namespace Sys2Proof.Machine

/-!
### The codes, the decoder and the encoder, and the pseudo-instructions (30_encoding.md R50 to R64)

A header whose sync bytes stand decodes to the frame row of its TYPE byte (`frameRow`), any other to none
(`decodeHeader_of_not_sync`). A row of a known kind applies under a configuration exactly when the catalog's
reverse lookup of its wire type gives that kind back (`knownRow_appliesUnder_iff`); both round trips of the
frame rows rest on this.
-/

/-- The frame row of a known kind (R66 to R71). -/
def knownRow : Kind → Instr
  | .lcdUpdate => .frameLcdUpdate
  | .lcdUpdateResponse => .frameLcdUpdateResponse
  | .joyStatusRequest => .frameJoyStatusRequest
  | .joyStatusRequestResponse => .frameJoyStatusRequestResponse
  | .joyVersionRequest => .frameJoyVersionRequest
  | .joyVersionRequestResponse => .frameJoyVersionRequestResponse

/-- The frame row of a TYPE byte (R53, R73). -/
def frameRow (kind3b : Bool) (t : Byte) : Instr :=
  match kindFor kind3b t with
  | some k => knownRow k
  | none => .frameUnknown t

theorem frameRow_of_known {kind3b : Bool} {t : Byte} {k : Kind} (h : kindFor kind3b t = some k) :
    frameRow kind3b t = knownRow k := by
  simp only [frameRow, h]

theorem frameRow_of_unknown {kind3b : Bool} {t : Byte} (h : kindFor kind3b t = none) :
    frameRow kind3b t = .frameUnknown t := by
  simp only [frameRow, h]

theorem encode_knownRow (k : Kind) :
    encode (knownRow k) = .header [0xAA, 0x55, (framingFor k).wireType] := by
  cases k <;> rfl

theorem knownRow_wellFormed (k : Kind) : (knownRow k).wellFormed = true := by
  cases k <;> rfl

/-- The condition of a row of the opcode table is the catalog's reverse lookup (R53, R73). -/
theorem knownRow_appliesUnder_iff (kind3b : Bool) (k : Kind) :
    (knownRow k).appliesUnder kind3b = true ↔ kindFor kind3b (framingFor k).wireType = some k := by
  cases kind3b <;> cases k <;> decide

theorem encode_frameRow (kind3b : Bool) (t : Byte) :
    encode (frameRow kind3b t) = .header [0xAA, 0x55, t] := by
  cases hk : kindFor kind3b t with
  | some k => rw [frameRow_of_known hk, encode_knownRow, framingFor_kindFor hk]
  | none => rw [frameRow_of_unknown hk, encode]

theorem frameRow_appliesUnder (kind3b : Bool) (t : Byte) :
    (frameRow kind3b t).appliesUnder kind3b = true := by
  cases hk : kindFor kind3b t with
  | some k =>
    rw [frameRow_of_known hk, knownRow_appliesUnder_iff, framingFor_kindFor hk]
    exact hk
  | none => rw [frameRow_of_unknown hk, Instr.appliesUnder]

theorem frameRow_wellFormed (kind3b : Bool) (t : Byte) : (frameRow kind3b t).wellFormed = true := by
  cases hk : kindFor kind3b t with
  | some k => rw [frameRow_of_known hk, knownRow_wellFormed]
  | none => rw [frameRow_of_unknown hk, Instr.wellFormed, (kindFor_none kind3b t).mp hk, Bool.not_false]

/-! ### The decoder on headers -/

theorem decode_header_of_sync (kind3b : Bool) (t : Byte) (rest : List Byte) :
    decode kind3b (.header (0xAA :: 0x55 :: t :: rest)) = .instr (frameRow kind3b t) := by
  rw [decode_sync_header, frameRow]
  cases kindFor kind3b t with
  | none => rfl
  | some k => cases k <;> rfl

/-- The sync part of a header word holds its first two bytes (R51). -/
theorem sync_of_headerWord {b0 b1 t : Byte} (h : headerWord b0 b1 t &&& 0xFFFF00 = 0xAA5500) :
    b0 = 0xAA ∧ b1 = 0x55 := by
  obtain ⟨hb0, hb1, -⟩ := headerWord_fields b0 b1 t
  have h0 := congrArg (BitVec.extractLsb' 16 8) h
  have h1 := congrArg (BitVec.extractLsb' 8 8) h
  rw [BitVec.extractLsb'_and, hb0] at h0
  rw [BitVec.extractLsb'_and, hb1] at h1
  exact ⟨(BitVec.and_allOnes (x := b0)).symm.trans h0, (BitVec.and_allOnes (x := b1)).symm.trans h1⟩

/-- A row that asks for both sync bytes does not match a header without them. -/
theorem rowMatches_of_not_sync {hdr mask pattern : BitVec 24} (hno : hdr &&& 0xFFFF00 ≠ 0xAA5500)
    (hmask : mask &&& 0xFFFF00 = 0xFFFF00) (hpattern : pattern &&& 0xFFFF00 = 0xAA5500) :
    rowMatches hdr mask pattern = false := by
  refine beq_eq_false_iff_ne.mpr fun hmatch => hno ?_
  calc hdr &&& 0xFFFF00
      = (hdr &&& mask) &&& 0xFFFF00 := by rw [BitVec.and_assoc, hmask]
    _ = 0xAA5500 := by rw [hmatch, hpattern]

/-- A header without its sync bytes matches no row, and is rejected by the first wrong one (R54, R63). -/
theorem decodeHeader_of_not_sync (kind3b : Bool) {b0 b1 : Byte} (t : Byte) (h : ¬(b0 = 0xAA ∧ b1 = 0x55)) :
    decodeHeader kind3b (headerWord b0 b1 t) =
      .rejected (if b0 = 0xAA then .notSync2 b1 else .notSync1 b0) := by
  obtain ⟨hb0, hb1, -⟩ := headerWord_fields b0 b1 t
  have hno : headerWord b0 b1 t &&& 0xFFFF00 ≠ 0xAA5500 := fun hsync => h (sync_of_headerWord hsync)
  simp (disch := decide) only [decodeHeader, rowMatches_of_not_sync hno, Bool.false_eq_true, if_false,
    hb0, hb1]
  by_cases hs : b0 = 0xAA
  · rw [if_pos hs, hs, if_neg (by decide)]
  · rw [if_neg hs, if_pos (bne_iff_ne.mpr hs)]

/-- A header that decodes to an instruction has its sync bytes and is the row of its TYPE byte (R63). -/
theorem decode_header_eq_instr {kind3b : Bool} {bytes : List Byte} {i : Instr}
    (h : decode kind3b (.header bytes) = .instr i) :
    ∃ t rest, bytes = 0xAA :: 0x55 :: t :: rest ∧ i = frameRow kind3b t := by
  match bytes, h with
  | b0 :: b1 :: t :: rest, h =>
    by_cases hsync : b0 = 0xAA ∧ b1 = 0x55
    · obtain ⟨rfl, rfl⟩ := hsync
      rw [decode_header_of_sync] at h
      cases h
      exact ⟨t, rest, rfl, rfl⟩
    · rw [decode, decodeHeader_of_not_sync kind3b t hsync] at h
      cases h

/-! ### The round trips -/

/-- The record of a payload of at most 255 bytes has its length in len (R56). -/
theorem decode_encode_encode (kind3b : Bool) (wt : Byte) (hc : Bool) {p : List Byte}
    (hp : p.length ≤ Config.maxPayload) :
    decode kind3b (encode (.encode wt hc p)) = .instr (.encode wt hc p) := by
  have hlen : p.length = (BitVec.ofNat 8 p.length).toNat := by
    rw [BitVec.toNat_ofNat]
    exact (Nat.mod_eq_of_lt (Nat.lt_succ_of_le hp)).symm
  rw [encode, decode, if_pos hlen]

theorem decode_encode_knownRow {kind3b : Bool} {k : Kind}
    (h : (knownRow k).appliesUnder kind3b = true) :
    decode kind3b (encode (knownRow k)) = .instr (knownRow k) := by
  rw [encode_knownRow, decode_header_of_sync,
    frameRow_of_known ((knownRow_appliesUnder_iff kind3b k).mp h)]

theorem decode_encode_frameUnknown (kind3b : Bool) {t : Byte} (h : (Instr.frameUnknown t).wellFormed = true) :
    decode kind3b (encode (.frameUnknown t)) = .instr (.frameUnknown t) := by
  have ht : catalogType t = false := by simpa [Instr.wellFormed] using h
  rw [encode, decode_header_of_sync, frameRow_of_unknown ((kindFor_none kind3b t).mpr ht)]

/-- Settles O6: ENCODE by its record's length, the other host operations by their record alone, a known
frame row by the reverse lookup of its wire type, the unknown one by the catalog not knowing its byte. -/
theorem decodeOfEncodeIsTheInstruction : Obligations.DecodeOfEncodeIsTheInstruction := by
  unfold Obligations.DecodeOfEncodeIsTheInstruction
  intro c i hwf happ
  cases i with
  | encode wt hc p => exact decode_encode_encode c wt hc (of_decide_eq_true hwf)
  | txdone dst => rfl
  | decode timeout => rfl
  | rxres dst => rfl
  | frameLcdUpdate => exact decode_encode_knownRow (k := .lcdUpdate) happ
  | frameLcdUpdateResponse => exact decode_encode_knownRow (k := .lcdUpdateResponse) happ
  | frameJoyStatusRequestResponse => exact decode_encode_knownRow (k := .joyStatusRequestResponse) happ
  | frameJoyVersionRequest => exact decode_encode_knownRow (k := .joyVersionRequest) happ
  | frameJoyStatusRequest => exact decode_encode_knownRow (k := .joyStatusRequest) happ
  | frameJoyVersionRequestResponse =>
    exact decode_encode_knownRow (k := .joyVersionRequestResponse) happ
  | frameUnknown t => exact decode_encode_frameUnknown c hwf

/-- What an offer decodes to is encoded as that offer (R56, R57). -/
theorem encode_of_decode_host {kind3b : Bool} {o : Offer} {i : Instr}
    (h : decode kind3b (.host o) = .instr i) : encode i = .host o := by
  cases o with
  | txCmd r =>
    simp only [decode] at h
    split at h
    · rename_i hl
      cases h
      rw [encode, hl, BitVec.ofNat_toNat, BitVec.setWidth_eq]
    · cases h
  | txDone v => cases h; rfl
  | rxCmd n => cases h; rfl
  | rxRes v => cases h; rfl

/-- The rows of the host ports have no condition (R63). -/
theorem appliesUnder_of_host_port {i : Instr} {p : HostPort} (h : i.port = .host p) (kind3b : Bool) :
    i.appliesUnder kind3b = true := by
  cases i with
  | encode wt hc payload => rfl
  | txdone dst => rfl
  | decode timeout => rfl
  | rxres dst => rfl
  | _ => cases h

/-- Settles O7: an offer is read back from its record, a header from the row of its TYPE byte. -/
theorem encodeOfDecodedIsWhatWasRead : Obligations.EncodeOfDecodedIsWhatWasRead := by
  unfold Obligations.EncodeOfDecodedIsWhatWasRead
  intro c e i h
  cases e with
  | host o =>
    exact ⟨encode_of_decode_host h, appliesUnder_of_host_port (decode_host_port c o i h) c,
      wellFormed_of_decode_host h⟩
  | header bytes =>
    obtain ⟨t, rest, rfl, rfl⟩ := decode_header_eq_instr h
    exact ⟨encode_frameRow c t, frameRow_appliesUnder c t, frameRow_wellFormed c t⟩

/-! ### The codes (R54, R58 to R62) -/

theorem Status.code_ne_seven (st : Status) : st.code ≠ 7 := by
  cases st <;> decide

theorem KindId.code_ne_six (k : KindId) : k.code ≠ 6 := by
  cases k with
  | unknown => decide
  | known k => cases k <;> decide

theorem RxState.code_lt_ten (r : RxState) : r.code.toNat < 10 := by
  cases r <;> decide

/-- Settles O3: the tables are read off the four code functions; the reserved codes have no constructor. -/
theorem codesAreTheTables : Obligations.CodesAreTheTables := by
  unfold Obligations.CodesAreTheTables
  refine ⟨?_, Status.code_ne_seven, ?_, KindId.code_ne_six, ?_, ?_, RxState.code_lt_ten⟩
  · exact ⟨rfl, rfl, rfl, rfl, rfl, rfl, rfl⟩
  · exact ⟨rfl, rfl, rfl, rfl, rfl, rfl, rfl⟩
  · exact ⟨rfl, rfl, rfl, rfl, rfl, rfl, rfl, rfl⟩
  · exact ⟨rfl, rfl, rfl, rfl, rfl, rfl, rfl, rfl, rfl, rfl⟩

/-! ### Headers: rejection, the written-out words, and the step that runs them -/

/-- Settles O8: without both sync bytes no row matches (`decodeHeader_of_not_sync`), with them one does. -/
theorem headersAreRejectedByTheirSyncBytes : Obligations.HeadersAreRejectedByTheirSyncBytes := by
  unfold Obligations.HeadersAreRejectedByTheirSyncBytes
  intro c b0 b1 t rest
  refine ⟨fun h0 => ?_, fun h0 h1 => ?_, fun h0 h1 => ?_⟩
  · rw [decode, decodeHeader_of_not_sync c t fun h => h0 h.1, if_neg h0]
  · rw [decode, decodeHeader_of_not_sync c t fun h => h1 h.2, if_pos h0]
  · subst h0 h1
    exact ⟨frameRow c t, decode_header_of_sync c t rest⟩

/-- Settles O9: each word has its sync bytes, and its TYPE byte is looked up in the catalog. -/
theorem writtenOutHeadersDecode : Obligations.WrittenOutHeadersDecode :=
  ⟨decode_header_of_sync false 0x1E [], decode_header_of_sync false 0x16 [],
    decode_header_of_sync false 0x3B [], decode_header_of_sync true 0x3B [],
    decode_header_of_sync false 0x42 []⟩

/-- A Read in RX_TYPE that completes a header which decodes to `i` fetches `i` (R63, R94). -/
theorem fetchHeader_of_decode {s : State} {d : Draw} {t : Byte} {i : Instr}
    (ht : s.link.readAnswer d = .byte t) (hi : decode s.cfg.kind3b (.header [0xAA, 0x55, t]) = .instr i) :
    fetchHeader d s = .run i (s.afterRead d) := by
  simp only [fetchHeader, ht, fetchEncoded, State.afterRead_cfg, hi]

/-- Settles O10: the deframer's turn in RX_TYPE fetches the header its Read completes and runs its row. -/
theorem stepRunsTheHeaderInstruction : Obligations.StepRunsTheHeaderInstruction := by
  unfold Obligations.StepRunsTheHeaderInstruction
  intro s d rest t i htape hrst hs ht hi
  have hfetch : fetchHeader d { s with tape := rest } = .run i (State.afterRead { s with tape := rest } d) :=
    fetchHeader_of_decode ht hi
  rw [step_deframer_type s d rest htape hrst hs, hfetch, Fetched.outcome_run]

/-! ### The pseudo-instructions (R64, R89, R90, R106) -/

/-- Settles O56: SEND's one test is on the number of bytes; XMIT and RECV have none. -/
theorem pseudoInstructionsExpand : Obligations.PseudoInstructionsExpand := by
  unfold Obligations.PseudoInstructionsExpand
  exact ⟨fun k p => ⟨fun hlen => if_pos hlen, fun hlen => if_neg hlen⟩,
    fun wt hc p v => rfl, fun n v => rfl⟩

end Sys2Proof.Machine

namespace Sys2Proof.Machine

/-!
### The catalog, its frame rows, and a frame that is complete at TYPE (40_catalog.md R65 to R74)

A known row runs RX_TYPE's dispatch on its kind (`exec_knownRow`), which finishes the frame or goes to RX_LEN by
the catalog's size. A DECODE's first three turns are said once (`run_header`): three Reads, and the dispatch on
the third byte.
-/

/-- Settles O4: each arm of the lookup, the last one for a byte that is none of the five. -/
theorem kindForIsTheReverseLookup : Obligations.KindForIsTheReverseLookup := by
  unfold Obligations.KindForIsTheReverseLookup
  intro c
  refine ⟨rfl, rfl, rfl, rfl, ?_, fun t h1E h16 h39 h3A h3B => ?_⟩
  · cases c <;> rfl
  · rw [kindFor.eq_def, if_neg h1E, if_neg h16, if_neg h39, if_neg h3A, if_neg h3B]

/-- Settles O5: the rows are read off the catalog. -/
theorem framingForGivesTheCatalogRows : Obligations.FramingForGivesTheCatalogRows :=
  ⟨rfl, rfl, rfl, rfl, rfl, rfl⟩

/-! ### The frame rows -/

section Rows
variable {k : Kind}

/-- A kind without payload is complete at TYPE (R94, C2). -/
theorem RxRegs.dispatchKnown_of_size_eq_zero (r : RxRegs) (h : (framingFor k).size = 0) :
    r.dispatchKnown k =
      { r with
        wireType := (framingFor k).wireType, kind := .known k, hc := (framingFor k).hc,
        size := (framingFor k).size, status := .ok, state := .done } := by
  rw [RxRegs.dispatchKnown, if_pos h, RxRegs.finish]

/-- A kind with a payload has its LEN read next (R94). -/
theorem RxRegs.dispatchKnown_of_size_ne_zero (r : RxRegs) (h : (framingFor k).size ≠ 0) :
    r.dispatchKnown k =
      { r with
        wireType := (framingFor k).wireType, kind := .known k, hc := (framingFor k).hc,
        size := (framingFor k).size, state := .len } := by
  rw [RxRegs.dispatchKnown, if_neg h]

/-- The row of a known kind is RX_TYPE's dispatch on that kind (R66 to R71, R94). -/
theorem exec_knownRow (k : Kind) (s : State) :
    exec (knownRow k) s = .next { s with rx := s.rx.dispatchKnown k } := by
  cases k <;> rfl

theorem exec_knownRow_of_size_eq_zero (s : State) (h : (framingFor k).size = 0) :
    exec (knownRow k) s =
      .next { s with rx := { s.rx with
        wireType := (framingFor k).wireType, kind := .known k, hc := (framingFor k).hc,
        size := (framingFor k).size, status := .ok, state := .done } } := by
  rw [exec_knownRow, RxRegs.dispatchKnown_of_size_eq_zero _ h]

theorem exec_knownRow_of_size_ne_zero (s : State) (h : (framingFor k).size ≠ 0) :
    exec (knownRow k) s =
      .next { s with rx := { s.rx with
        wireType := (framingFor k).wireType, kind := .known k, hc := (framingFor k).hc,
        size := (framingFor k).size, state := .len } } := by
  rw [exec_knownRow, RxRegs.dispatchKnown_of_size_ne_zero _ h]

end Rows

/-- Settles O16: four kinds have a payload and go to RX_LEN, the two without one are finished. -/
theorem catalogRowsDispatch : Obligations.CatalogRowsDispatch := by
  unfold Obligations.CatalogRowsDispatch
  exact fun s =>
    ⟨exec_knownRow_of_size_ne_zero (k := .lcdUpdate) s (by decide),
      exec_knownRow_of_size_ne_zero (k := .lcdUpdateResponse) s (by decide),
      exec_knownRow_of_size_ne_zero (k := .joyStatusRequestResponse) s (by decide),
      exec_knownRow_of_size_eq_zero (k := .joyVersionRequest) s rfl,
      exec_knownRow_of_size_eq_zero (k := .joyStatusRequest) s rfl,
      exec_knownRow_of_size_ne_zero (k := .joyVersionRequestResponse) s (by decide)⟩

/-- Settles O17: the row is the dispatch on an unknown type. -/
theorem unknownRowDispatches : Obligations.UnknownRowDispatches := by
  unfold Obligations.UnknownRowDispatches
  intro s t
  rw [exec, execFrameUnknown, RxRegs.dispatchUnknown]

/-! ### A header read under the deterministic Transport -/

section Reading
variable {s : State} {rest : List Input}

/-- A turn whose Read is answered with a byte (R33, R92 to R94, R96 to R98). -/
theorem step_readByte {d : Draw} {b : Byte} (htape : s.tape = .deframer d :: rest)
    (hrst : s.cfg.rst = false) (hinv : s.rx.Inv s.cfg.kind3b) (hreads : s.rx.state.reads = true)
    (hb : s.link.readAnswer d = .byte b) :
    step s = .next (s.tookByte rest b (s.rx.afterByte s.cfg.kind3b b)) := by
  rw [step_deframerTurn htape hrst hinv,
    State.deframerTurn_of_reads (s := { s with tape := rest }) d hreads]
  simp only [hb, Transport.afterRead_of_byte _ _ hb, RxRegs.afterReadAnswer, State.tookByte]

/-- On an open link a prompt Read is answered with the stream's first byte (R35). -/
theorem Transport.readAnswer_prompt_of_unread {l : Transport} {b : Byte} {bs : List Byte}
    (hopen : l.isOpen = true) (hu : l.unread = b :: bs) : l.readAnswer .prompt = .byte b := by
  rw [readAnswer_prompt l hopen, hu]

theorem RxRegs.afterByte_sync1_match (kind3b : Bool) (r : RxRegs) (h : r.state = .sync1) :
    r.afterByte kind3b 0xAA = { r with state := .sync2 } := by
  rw [r.afterByte_sync1 kind3b h]
  exact if_pos rfl

theorem RxRegs.afterByte_sync2_match (kind3b : Bool) (r : RxRegs) (h : r.state = .sync2) :
    r.afterByte kind3b 0x55 = { r with state := .type } := by
  rw [r.afterByte_sync2 kind3b h]
  exact if_pos rfl

/-- The state after the three turns that read a header of TYPE byte `t` from the front of the stream; `more` is
what follows it (R92 to R94). -/
def State.readHeader (s : State) (rest : List Input) (t : Byte) (more : List Byte) : State :=
  { s with
    tape := rest
    rx := { s.rx with state := .type }.dispatch s.cfg.kind3b t
    link :=
      { s.link with
        pushback := none
        duty := false
        line := more
        rxLog := s.link.rxLog ++
          [.read s.rx.tmo (.byte 0xAA), .read s.rx.tmo (.byte 0x55), .read s.rx.tmo (.byte t)] } }

/-- The first of several prompt turns, with a byte for it on an open link. -/
theorem run_promptTurn {n : Nat} {b : Byte} {bs : List Byte} (htape : s.tape = promptTurns (n + 1) ++ rest)
    (hrst : s.cfg.rst = false) (hopen : s.link.isOpen = true) (hinv : s.rx.Inv s.cfg.kind3b)
    (hreads : s.rx.state.reads = true) (hu : s.link.unread = b :: bs) :
    Sys2Proof.core.run (n + 1) s =
      Sys2Proof.core.run n (s.tookByte (promptTurns n ++ rest) b (s.rx.afterByte s.cfg.kind3b b)) :=
  run_succ s _ n
    (step_readByte htape hrst hinv hreads (Transport.readAnswer_prompt_of_unread hopen hu))

/-- From RX_SYNC1 a header is read in three prompt turns, one Read each, and its TYPE byte dispatched. -/
theorem run_header {t : Byte} {more : List Byte} (htape : s.tape = promptTurns 3 ++ rest)
    (hrst : s.cfg.rst = false) (hopen : s.link.isOpen = true) (hinv : s.rx.Inv s.cfg.kind3b)
    (hs : s.rx.state = .sync1) (hu : s.link.unread = 0xAA :: 0x55 :: t :: more) :
    Sys2Proof.core.run 3 s = .next (s.readHeader rest t more) := by
  have hstart : s.rx.idx = 0 ∧ s.rx.acc = 0 := by simpa only [RxRegs.Inv, hs] using hinv
  have hu55 : s.link.unread.tail = 0x55 :: t :: more := congrArg List.tail hu
  have hutype : s.link.unread.tail.tail = t :: more := congrArg List.tail hu55
  have hmore : s.link.unread.tail.tail.tail = more := congrArg List.tail hutype
  refine Eq.trans (run_promptTurn htape hrst hopen hinv (by rw [hs]; rfl) hu) ?_
  rw [RxRegs.afterByte_sync1_match _ _ hs]
  refine Eq.trans (run_promptTurn rfl hrst hopen hstart rfl hu55) ?_
  rw [RxRegs.afterByte_sync2_match _ _ rfl]
  refine Eq.trans (run_promptTurn rfl hrst hopen hstart rfl hutype) ?_
  rw [RxRegs.afterByte_type _ _ rfl, run_zero]
  simp only [State.tookByte, State.readHeader, List.append_assoc, List.cons_append, List.nil_append,
    ← hmore]
  rfl

end Reading

/-- Settles O37: the DECODE starts the frame in RX_SYNC1 (`step_decode`), three turns read the header
(`run_header`), and the dispatch finishes a kind without payload. -/
theorem joyVersionRequestTakesThreeReads : Obligations.JoyVersionRequestTakesThreeReads := by
  unfold Obligations.JoyVersionRequestTakesThreeReads
  intro s tmo cmds more rest hidle hrst hopen hcmd hu htape
  have hheader := run_header (s := s.decoding tmo (promptTurns 3 ++ rest)) (t := 0x3A) rfl hrst hopen
    ⟨rfl, rfl⟩ rfl hu
  refine ⟨_, (run_succ s _ 3 (step_decode htape hcmd hidle hrst)).trans hheader, rfl, rfl, ?_, rfl⟩
  have hkind : kindFor s.cfg.kind3b 0x3A = some .joyVersionRequest := rfl
  simp only [State.readHeader, State.decoding, RxRegs.dispatch, hkind,
    RxRegs.dispatchKnown_of_size_eq_zero (k := .joyVersionRequest) _ rfl]
  rfl

end Sys2Proof.Machine

namespace Sys2Proof.Machine

/-!
### The framer (41_framer.md R75 to R87)

`TxRegs.Sends` says at once what a framer's turn writes and the registers it leaves on Ok; the step's two answers
follow from it. `TxRegs.SendsAll` is its closure over a list of bytes: an accepted Packet's registers send
`frameOf` of it (`TxRegs.sendsAll_accept`), and a run of turns appends what they send (`TxRegs.SendsAll.run`).
-/

/-! ### ENCODE and TXDONE -/

theorem TxRegs.accept_of_fits {hc : Bool} {p : List Byte} (hp : p.length ≤ 255)
    (hfits : ¬(hc = true ∧ p.length = 255)) (r : TxRegs) (wt : Byte) :
    r.accept wt hc p =
      { r with
        wireType := wt, hc := hc, len := BitVec.ofNat 8 p.length, buf := r.buf.load p, idx := 0,
        acc := 0, state := .sync1 } := by
  refine if_neg ?_
  rintro ⟨hhc, hlong⟩
  exact hfits ⟨hhc, Nat.le_antisymm hp hlong⟩

theorem TxRegs.accept_of_refused {p : List Byte} (hp : p.length = 255) (r : TxRegs) (wt : Byte) :
    r.accept wt true p = r.finish .refusedLength :=
  if_pos ⟨rfl, by simp [Config.maxPayloadCk, hp]⟩

/-- An idle framer takes the command off its port (R14, R76). -/
theorem exec_encode_of_idle {s : State} (hidle : s.tx.state = .idle) (hrst : s.cfg.rst = false)
    (wt : Byte) (hc : Bool) {p : List Byte} (hp : p.length ≤ 255) :
    exec (.encode wt hc p) s =
      .next { s with tx := s.tx.accept wt hc p, ports := s.ports.take .txCmd } := by
  have hmax : ¬ Config.maxPayload < p.length := Nat.not_lt.mpr hp
  simp only [exec, execEncode, if_neg hmax, if_pos (And.intro hidle hrst)]

theorem exec_txdone_of_done {s : State} (h : s.tx.state = .done) (v : Nat) :
    exec (.txdone v) s =
      .next
        { s with
          tx := s.tx.toIdle
          ports :=
            { s.ports.take .txDone with vars := writeVar v (.txDone s.tx.status) s.ports.vars } } :=
  if_pos h

/-- Settles O12: an idle framer leaves the registers of `TxRegs.accept`, whose copy of the payload is
`read_load`; a busy one waits. -/
theorem encodeAcceptsRefusesOrWaits : Obligations.EncodeAcceptsRefusesOrWaits := by
  unfold Obligations.EncodeAcceptsRefusesOrWaits
  intro s wt hc p hp
  refine ⟨fun hidle hrst hfits => ?_, fun hidle hrst hhc hlen => ?_,
    fun hbusy => exec_encode_of_busy hbusy wt hc hp⟩
  · have hexec := exec_encode_of_idle hidle hrst wt hc hp
    rw [TxRegs.accept_of_fits hp hfits] at hexec
    exact ⟨_, hexec, rfl, rfl, rfl, Nat.mod_eq_of_lt (Nat.lt_succ_of_le hp),
      fun j hj => read_load _ p j hj (Nat.le_succ_of_le hp), fun j hj => read_load_beyond _ p j hj,
      rfl, rfl, rfl, rfl, rfl, rfl, rfl, rfl, rfl, rfl, rfl⟩
  · subst hhc
    have hexec := exec_encode_of_idle hidle hrst wt true hp
    rw [TxRegs.accept_of_refused hlen] at hexec
    exact ⟨_, hexec, rfl, rfl, rfl, rfl, rfl, rfl, rfl, rfl, rfl⟩

/-- Settles O13: the handshake writes the one variable and sends the framer to idle; without a result it waits. -/
theorem txdoneHandsOverTheStatus : Obligations.TxdoneHandsOverTheStatus := by
  unfold Obligations.TxdoneHandsOverTheStatus
  intro s v
  refine ⟨fun hdone => ?_, fun hs => exec_txdone_of_not_done hs v⟩
  exact ⟨_, exec_txdone_of_done hdone v, rfl, readVar_writeVar_self v _ _,
    fun w hw => readVar_writeVar_other v w _ _ hw, rfl, rfl, rfl, rfl, rfl, rfl, rfl, rfl, rfl, rfl, rfl⟩

/-! ### The frame of a Packet (R75, R87) -/

theorem sum8_add_checksumOf (p : List Byte) : sum8 p + checksumOf p = 0 := by
  rw [checksumOf]
  bv_omega

theorem frameOf_nil (wt : Byte) (hc : Bool) : frameOf ⟨wt, [], hc⟩ = [0xAA, 0x55, wt] := rfl

theorem frameOf_of_ne_nil (wt : Byte) (hc : Bool) {p : List Byte} (h : p ≠ []) :
    frameOf ⟨wt, p, hc⟩ =
      0xAA :: 0x55 :: wt :: lenByte (BitVec.ofNat 8 p.length) hc ::
        (p ++ if hc then [checksumOf p] else []) := by
  simp [frameOf, h]

theorem frameOf_length (wt : Byte) (hc : Bool) (p : List Byte) :
    (frameOf ⟨wt, p, hc⟩).length =
      if p = [] then 3 else p.length + 4 + (if hc then 1 else 0) := by
  by_cases h : p = []
  · subst h
    rfl
  · rw [if_neg h, frameOf_of_ne_nil wt hc h]
    cases hc <;> simp

/-- Settles O28: the checksum is the two's complement of the payload's sum, and LEN does not wrap. -/
theorem checksumLaw : Obligations.ChecksumLaw := by
  unfold Obligations.ChecksumLaw
  intro wt p hne hp
  refine ⟨_, _, frameOf_of_ne_nil wt true hne, ?_, sum8_add_checksumOf p⟩
  have hlen : (BitVec.ofNat 8 p.length).toNat = p.length := Nat.mod_eq_of_lt (by omega)
  have hfits : ¬(true = true ∧ BitVec.ofNat 8 p.length = 255) := by
    rintro ⟨-, h⟩
    rw [h] at hlen
    have h255 : 255 = p.length := hlen
    omega
  rw [lenByte_toNat _ _ hfits, expectedLen, hlen]
  rfl

/-! ### What the framer's turn writes (R77 to R83) -/

/-- `r.Sends b r'`: with registers `r` the framer's turn writes `b`, and on Ok leaves `r'`. -/
inductive TxRegs.Sends (r : TxRegs) : Byte → TxRegs → Prop where
  | sync1 (hs : r.state = .sync1) : r.Sends 0xAA { r with state := .sync2 }
  | sync2 (hs : r.state = .sync2) : r.Sends 0x55 { r with state := .type }
  | type (hs : r.state = .type) :
    r.Sends r.wireType (if r.len = 0 then r.finish .ok else { r with state := .len })
  | len (hs : r.state = .len) : r.Sends (lenByte r.len r.hc) { r with state := .payload }
  | payload (hs : r.state = .payload) (b : Byte) (hb : Buf.read r.buf r.idx.toNat = some b) :
    r.Sends b (r.afterPayloadByte b)
  | ck (hs : r.state = .ck) : r.Sends r.acc (r.finish .ok)

theorem TxRegs.Sends.state_ne_done {r r' : TxRegs} {b : Byte} (h : r.Sends b r') :
    r.state ≠ .done := by
  cases h with
  | sync1 hs | sync2 hs | type hs | len hs | payload hs | ck hs => simp [hs]

/-- The turn in a sending state is one Write (R33). -/
theorem TxRegs.Sends.txStep_eq {s : State} {b : Byte} {r : TxRegs} (h : s.tx.Sends b r) (a : WriteAnswer) :
    txStep a s = .next (s.sendByte a b r) := by
  cases h with
  | payload hs b hb => simp only [txStep, hs, txPayloadStep, hb]
  | sync1 hs | sync2 hs | type hs | len hs | ck hs =>
    simp only [txStep, hs]
    rfl

theorem sendByte_ok {s : State} (hopen : s.link.isOpen = true) (b : Byte) (r : TxRegs) :
    s.sendByte .ok b r = s.wrote s.tape b r := by
  rcases sendByte_cases s .ok b r with ⟨-, -, he⟩ | ⟨hfail, -⟩
  · exact he
  · simp [hopen] at hfail

theorem sendByte_error (s : State) (b : Byte) (r : TxRegs) :
    s.sendByte .error b r = s.writeFailed s.tape b := by
  rcases sendByte_cases s .error b r with ⟨hok, -⟩ | ⟨-, he⟩
  · cases hok
  · exact he

section Turn
variable {s : State} {rest : List Input} {b : Byte} {r : TxRegs}

/-- A framer's turn answered Ok (R31, R77 to R82). -/
theorem TxRegs.Sends.step_ok (h : s.tx.Sends b r) (htape : s.tape = .framer .ok :: rest)
    (hrst : s.cfg.rst = false) (hopen : s.link.isOpen = true) :
    step s = .next (s.wrote rest b r) := by
  rw [step_framer s .ok rest htape hrst, TxRegs.Sends.txStep_eq (s := { s with tape := rest }) h]
  exact congrArg _ (sendByte_ok (s := { s with tape := rest }) hopen b r)

/-- A framer's turn answered Error (R31, R83). -/
theorem TxRegs.Sends.step_error (h : s.tx.Sends b r) (htape : s.tape = .framer .error :: rest)
    (hrst : s.cfg.rst = false) : step s = .next (s.writeFailed rest b) := by
  rw [step_framer s .error rest htape hrst, TxRegs.Sends.txStep_eq (s := { s with tape := rest }) h]
  exact congrArg _ (sendByte_error { s with tape := rest } b r)

end Turn

/-- The registers TX_PAYLOAD leaves, with the 9-bit index counted up (R81). -/
theorem TxRegs.afterPayloadByte_eq (r : TxRegs) (b : Byte) :
    r.afterPayloadByte b =
      if r.idx.toNat + 1 < r.len.toNat then { r with acc := r.acc - b, idx := r.idx + 1 }
      else if r.hc = true then { r with acc := r.acc - b, idx := r.idx + 1, state := .ck }
      else { r with acc := r.acc - b, idx := r.idx + 1, status := .ok, state := .done } := by
  have hidx : BitVec.ofNat 9 (r.idx.toNat + 1) = r.idx + 1 := BitVec.eq_of_toNat_eq (by simp)
  simp only [TxRegs.afterPayloadByte, hidx, TxRegs.finish]

/-- Settles O19: each state's turn is one Write (`TxRegs.Sends`), whose two answers are `Sends.step_ok` and
`Sends.step_error`. -/
theorem framerStepsFollowTheirRules : Obligations.FramerStepsFollowTheirRules := by
  unfold Obligations.FramerStepsFollowTheirRules
  intro s rest hrst hopen
  refine ⟨fun htape => ?_, fun htape => ?_, fun hidx => ?_, fun hfits => ?_⟩
  · refine ⟨fun hs => ?_, fun hs => ?_, fun hs => ?_, fun hs => ?_, fun hs b hb => ?_, fun hs => ?_⟩
    · exact (TxRegs.Sends.sync1 hs).step_ok htape hrst hopen
    · exact (TxRegs.Sends.sync2 hs).step_ok htape hrst hopen
    · exact (TxRegs.Sends.type hs).step_ok htape hrst hopen
    · exact (TxRegs.Sends.len hs).step_ok htape hrst hopen
    · rw [← TxRegs.afterPayloadByte_eq]
      exact (TxRegs.Sends.payload hs b hb).step_ok htape hrst hopen
    · exact (TxRegs.Sends.ck hs).step_ok htape hrst hopen
  · exact ⟨fun hs => (TxRegs.Sends.sync1 hs).step_error htape hrst,
      fun hs => (TxRegs.Sends.sync2 hs).step_error htape hrst,
      fun hs => (TxRegs.Sends.type hs).step_error htape hrst,
      fun hs => (TxRegs.Sends.len hs).step_error htape hrst,
      fun hs b hb => (TxRegs.Sends.payload hs b hb).step_error htape hrst,
      fun hs => (TxRegs.Sends.ck hs).step_error htape hrst⟩
  · exact read_isSome _ _ (Nat.lt_trans hidx s.tx.len.isLt)
  · refine (lenByte_toNat _ _ hfits).trans ?_
    rw [expectedLen]
    cases s.tx.hc <;> rfl

/-! ### The bytes of a whole frame (R86) -/

/-- `r.SendsAll bs`: from registers `r` turns answered Ok write exactly the bytes `bs`, one a turn, and the framer
is then done with OK. -/
inductive TxRegs.SendsAll : TxRegs → List Byte → Prop where
  | done {r : TxRegs} (hs : r.state = .done) (hok : r.status = .ok) : r.SendsAll []
  | send {r r' : TxRegs} {b : Byte} {bs : List Byte} (h : r.Sends b r') (more : r'.SendsAll bs) :
    r.SendsAll (b :: bs)

theorem TxRegs.SendsAll.done_iff {r : TxRegs} {bs : List Byte} (h : r.SendsAll bs) :
    r.state = .done ↔ bs = [] := by
  cases h with
  | done hs _ => simp [hs]
  | send h _ => simp [h.state_ne_done]

theorem TxRegs.SendsAll.status_ok {r : TxRegs} (h : r.SendsAll []) : r.status = .ok := by
  cases h with
  | done _ hok => exact hok

/-- TX_PAYLOAD and TX_CK (R81, R82): the bytes `q` that stand in the buffer from the index on, and then what the
accumulator comes to. -/
theorem TxRegs.sendsAll_payload (q : List Byte) : ∀ (r : TxRegs) (b : Byte), r.state = .payload →
    r.idx.toNat + (b :: q).length = r.len.toNat →
    (∀ j, j < (b :: q).length → Buf.read r.buf (r.idx.toNat + j) = (b :: q)[j]?) →
    r.SendsAll (b :: q ++ if r.hc then [r.acc - sum8 (b :: q)] else []) := by
  induction q with
  | nil =>
    intro r b hs hlen hread
    have hlast : ¬ r.idx.toNat + 1 < r.len.toNat := by simp at hlen; omega
    have hsend := TxRegs.Sends.payload hs b (hread 0 (by simp))
    have hsum : sum8 [b] = b := by simp
    rw [TxRegs.afterPayloadByte_eq, if_neg hlast] at hsend
    rw [hsum]
    cases hc : r.hc with
    | true =>
      rw [if_pos hc] at hsend
      exact .send hsend (.send (.ck rfl) (.done rfl rfl))
    | false =>
      rw [if_neg (by simp [hc])] at hsend
      exact .send hsend (.done rfl rfl)
  | cons c q ih =>
    intro r b hs hlen hread
    have hmore : r.idx.toNat + 1 < r.len.toNat := by simp at hlen; omega
    have hidx : (r.idx + 1).toNat = r.idx.toNat + 1 := by
      have := r.len.isLt
      rw [BitVec.toNat_add]
      exact Nat.mod_eq_of_lt (by simp; omega)
    have hsend := TxRegs.Sends.payload hs b (hread 0 (by simp))
    rw [TxRegs.afterPayloadByte_eq, if_pos hmore] at hsend
    have hrest := ih { r with acc := r.acc - b, idx := r.idx + 1 } c hs
      (by simp only [hidx]; simp at hlen ⊢; omega)
      (fun j hj => by
        have := hread (j + 1) (by simp at hj ⊢; omega)
        simpa only [hidx, Nat.add_assoc, Nat.add_comm 1 j, List.getElem?_cons_succ] using this)
    have hsum : r.acc - sum8 (b :: c :: q) = r.acc - b - sum8 (c :: q) := by
      rw [sum8_cons b]
      bv_omega
    rw [hsum]
    exact .send hsend hrest

/-- The Packet latched at acceptance (R76): `p` is the payload, and nothing of it has been sent. -/
structure TxRegs.Latched (r : TxRegs) (p : List Byte) : Prop where
  size : p.length ≤ 255
  len : r.len = BitVec.ofNat 8 p.length
  bytes : ∀ j, j < p.length → Buf.read r.buf j = p[j]?
  idx : r.idx = 0
  acc : r.acc = 0

section Latched
variable {r : TxRegs} {p : List Byte}

theorem TxRegs.Latched.len_toNat (h : r.Latched p) : r.len.toNat = p.length := by
  rw [h.len]
  exact Nat.mod_eq_of_lt (Nat.lt_succ_of_le h.size)

theorem TxRegs.Latched.len_eq_zero_iff (h : r.Latched p) : r.len = 0 ↔ p = [] := by
  rw [← List.length_eq_zero_iff, ← h.len_toNat]
  exact (BitVec.toNat_eq (y := 0#8))

/-- TX_PAYLOAD from its first byte on: the payload, and with `tx_hc` its checksum. -/
theorem TxRegs.Latched.sendsAll_payload (h : r.Latched p) (hne : p ≠ []) (hs : r.state = .payload) :
    r.SendsAll (p ++ if r.hc then [checksumOf p] else []) := by
  obtain ⟨b, q, rfl⟩ := List.exists_cons_of_ne_nil hne
  have hall := TxRegs.sendsAll_payload q r b hs (by simpa [h.idx] using h.len_toNat.symm)
    (fun j hj => by simpa [h.idx] using h.bytes j hj)
  rwa [h.acc] at hall

/-- TX_SYNC1 onwards: the whole frame of the latched Packet (R75, R86). -/
theorem TxRegs.Latched.sendsAll_frame (h : r.Latched p) (hs : r.state = .sync1) :
    r.SendsAll (frameOf ⟨r.wireType, p, r.hc⟩) := by
  have htype := TxRegs.Sends.type (r := { r with state := .type }) rfl
  by_cases hp : p = []
  · rw [if_pos (h.len_eq_zero_iff.mpr hp)] at htype
    rw [hp, frameOf_nil]
    exact .send (.sync1 hs) (.send (.sync2 rfl) (.send htype (.done rfl rfl)))
  · rw [if_neg (mt h.len_eq_zero_iff.mp hp)] at htype
    have hlatched : TxRegs.Latched { r with state := .payload } p := ⟨h.size, h.len, h.bytes, h.idx, h.acc⟩
    rw [frameOf_of_ne_nil _ _ hp, ← h.len]
    exact .send (.sync1 hs) (.send (.sync2 rfl) (.send htype (.send (.len rfl)
      (hlatched.sendsAll_payload hp rfl))))

end Latched

/-- The registers of an accepted Packet send its frame. -/
theorem TxRegs.sendsAll_accept (r : TxRegs) (wt : Byte) (hc : Bool) {p : List Byte} (hp : p.length ≤ 255)
    (hfits : ¬(hc = true ∧ p.length = 255)) :
    (r.accept wt hc p).SendsAll (frameOf ⟨wt, p, hc⟩) := by
  rw [TxRegs.accept_of_fits hp hfits]
  exact TxRegs.Latched.sendsAll_frame
    ⟨hp, rfl, fun j hj => read_load _ p j hj (Nat.le_succ_of_le hp), rfl, rfl⟩ rfl

/-! ### A run of framer turns -/

/-- The state after framer turns that wrote the bytes `bs`, each answered Ok, and left registers `r`; `rest` is the
tape still to come. -/
def State.sent (s : State) (rest : List Input) (bs : List Byte) (r : TxRegs) : State :=
  { s with
    tape := rest
    tx := r
    link :=
      { s.link with
        sink := s.link.sink ++ bs
        txLog := s.link.txLog ++ bs.map fun b => ⟨b, .ok⟩ } }

theorem State.sent_nil (s : State) : s.sent s.tape [] s.tx = s := by
  simp [State.sent]

theorem State.wrote_sent (s : State) (tape rest : List Input) (b : Byte) (bs : List Byte) (r r' : TxRegs) :
    (s.wrote tape b r).sent rest bs r' = s.sent rest (b :: bs) r' := by
  simp [State.wrote, State.sent]

/-- Turns answered Ok append the first of the bytes the registers send, and leave registers that send the others. -/
theorem TxRegs.SendsAll.run (k : Nat) : ∀ {s : State} {bs : List Byte} {rest : List Input},
    s.tx.SendsAll bs → k ≤ bs.length → s.tape = okTurns k ++ rest → s.cfg.rst = false →
    s.link.isOpen = true →
    ∃ r : TxRegs, r.SendsAll (bs.drop k) ∧ Sys2Proof.core.run k s = .next (s.sent rest (bs.take k) r) := by
  induction k with
  | zero =>
    intro s bs rest h _ htape _ _
    have hrest : s.tape = rest := htape
    exact ⟨s.tx, h, by rw [List.take_zero, ← hrest, State.sent_nil, run_zero]⟩
  | succ k ih =>
    intro s bs rest h hk htape hrst hopen
    cases h with
    | done => simp at hk
    | @send _ r' b bs hsends hmore =>
      have hstep : step s = .next (s.wrote (okTurns k ++ rest) b r') := hsends.step_ok htape hrst hopen
      obtain ⟨r, hleft, hrun⟩ :=
        ih (s := s.wrote (okTurns k ++ rest) b r') hmore (Nat.le_of_succ_le_succ hk) rfl hrst hopen
      refine ⟨r, hleft, ?_⟩
      rw [run_succ s _ k hstep, hrun, State.wrote_sent, List.take_succ_cons]

/-- After such turns the one answered Error ends the frame, and its byte does not go out (R83). -/
theorem TxRegs.SendsAll.run_error {s : State} {bs : List Byte} {rest : List Input} {k : Nat}
    (h : s.tx.SendsAll bs) (hk : k < bs.length) (htape : s.tape = okTurns k ++ .framer .error :: rest)
    (hrst : s.cfg.rst = false) (hopen : s.link.isOpen = true) :
    ∃ (r : TxRegs) (b : Byte), Sys2Proof.core.run (k + 1) s =
      .next ((s.sent (.framer .error :: rest) (bs.take k) r).writeFailed rest b) := by
  obtain ⟨r, hleft, hrun⟩ := TxRegs.SendsAll.run k h hk.le htape hrst hopen
  rw [List.drop_eq_getElem_cons hk] at hleft
  cases hleft with
  | send hsends _ =>
    have hfail := TxRegs.Sends.step_error (s := s.sent (.framer .error :: rest) (bs.take k) r) hsends rfl hrst
    exact ⟨r, bs[k], by rw [run_add k 1 _ _ hrun, run_succ _ _ 0 hfail, run_zero]⟩

/-- The state an ENCODE handshake leaves (R76), its offer and its move gone. -/
def State.encoding (s : State) (wt : Byte) (hc : Bool) (p : List Byte) (rest : List Input) : State :=
  { s with tape := rest, tx := s.tx.accept wt hc p, ports := s.ports.take .txCmd }

theorem step_encode {s : State} {wt : Byte} {hc : Bool} {p : List Byte} {cmds : List TxCmdRecord}
    {rest : List Input} (htape : s.tape = .host .txCmd :: rest)
    (hcmd : s.ports.txCmd = ⟨wt, hc, BitVec.ofNat 8 p.length, p⟩ :: cmds) (hp : p.length ≤ 255)
    (hidle : s.tx.state = .idle) (hrst : s.cfg.rst = false) :
    step s = .next (s.encoding wt hc p rest) := by
  have hfetch : fetchOffer .txCmd { s with tape := rest } = .run (.encode wt hc p) { s with tape := rest } :=
    fetchOffer_of_decode (o := .txCmd ⟨wt, hc, BitVec.ofNat 8 p.length, p⟩) (by simp [Ports.head?, hcmd])
      (decode_encode_encode _ wt hc hp)
  rw [step_host s _ rest htape, hfetch, Fetched.outcome_run]
  exact exec_encode_of_idle (s := { s with tape := rest }) hidle hrst wt hc hp

/-- Settles O29: the accepted registers send the frame (`TxRegs.sendsAll_accept`), a run of turns appends its
first bytes (`TxRegs.SendsAll.run`), and the turn answered Error ends it there (`TxRegs.Sends.step_error`). -/
theorem framerSendsTheFrame : Obligations.FramerSendsTheFrame := by
  unfold Obligations.FramerSendsTheFrame
  intro s wt hc p cmds hidle hrst hopen hp hfits hcmd
  have hframe := s.tx.sendsAll_accept wt hc hp hfits
  have hports : s.ports.take .txCmd = { s.ports with txCmd := cmds } := by
    simp [Ports.take, hcmd]
  refine ⟨frameOf_length wt hc p, fun k rest hk htape => ?_, fun k rest hpos hk htape => ?_⟩
  · have hstep := step_encode htape hcmd hp hidle hrst
    obtain ⟨r, hleft, hrun⟩ := TxRegs.SendsAll.run k (s := s.encoding wt hc p (okTurns k ++ rest))
      hframe hk rfl hrst hopen
    rw [Nat.add_comm 1 k]
    refine ⟨_, (run_succ s _ k hstep).trans hrun, rfl, ?_, fun hall => ?_, rfl, rfl, rfl, rfl, hports⟩
    · exact hleft.done_iff.trans (by rw [List.drop_eq_nil_iff]; omega)
    · rw [List.drop_eq_nil_of_le hall.ge] at hleft
      exact hleft.status_ok
  · obtain ⟨j, rfl⟩ := Nat.exists_eq_add_of_le' hpos
    have hstep := step_encode htape hcmd hp hidle hrst
    obtain ⟨r, b, hrun⟩ := TxRegs.SendsAll.run_error
      (s := s.encoding wt hc p (okTurns j ++ .framer .error :: rest)) hframe hk rfl hrst hopen
    rw [Nat.add_comm 1 (j + 1)]
    exact ⟨_, (run_succ s _ (j + 1) hstep).trans hrun, rfl, rfl, rfl, rfl, rfl, rfl, rfl, hports⟩

/-! ### Idle engines (R76, R91, R116, R123) -/

theorem step_framer_waits {s : State} {a : WriteAnswer} {rest : List Input}
    (htape : s.tape = .framer a :: rest) (hs : s.tx.state = .idle ∨ s.tx.state = .done) :
    step s = .next { s with tape := rest } := by
  rw [step_cons s _ rest htape]
  simp only [fetchInput]
  split
  · rfl
  · rcases hs with hs | hs <;> simp only [Fetched.outcome_did, txStep, hs]

theorem step_deframer_waits {s : State} {d : Draw} {rest : List Input}
    (htape : s.tape = .deframer d :: rest)
    (hs : s.rx.state = .idle ∨ s.rx.state = .done ∨ s.rx.state = .failed) :
    step s = .next { s with tape := rest } := by
  rw [step_cons s _ rest htape]
  simp only [fetchInput]
  split
  · rfl
  · rcases hs with hs | hs | hs <;> simp [rxStep, hs]

/-- What a move does to the registers of an idle framer: only ENCODE acceptance and rst change them. -/
theorem Move.tx_of_idle {i : Input} {s t : State} (hm : Move i s t) (hidle : s.tx.state = .idle) :
    t.tx = s.tx ∨
      (∃ r cmds, i = .host .txCmd ∧ s.ports.txCmd = r :: cmds ∧ r.payload.length = r.len.toNat ∧
        s.cfg.rst = false ∧ t.ports.txCmd = cmds ∧
        t.tx = s.tx.accept r.wireType r.hasChecksum r.payload) ∨
      (∃ level, i = .rst level ∧ t.tx.state = .idle) := by
  cases hm with
  | encode _ r cmds hc hl _ hrst => exact .inr (.inl ⟨r, cmds, rfl, hc, hl, hrst, rfl, rfl⟩)
  | rst level => exact .inr (.inr ⟨level, rfl, rfl⟩)
  | txdone _ _ _ _ hs => simp [hidle] at hs
  | txSync1 _ _ hs | txSync2 _ _ hs | txType _ _ hs | txLen _ _ hs | txPayload _ _ _ hs | txCk _ _ hs =>
    simp [hidle] at hs
  | _ => exact .inl rfl

/-- What a move does to the registers of an idle deframer: only DECODE acceptance and rst change them. -/
theorem Move.rx_of_idle {i : Input} {s t : State} (hm : Move i s t) (hidle : s.rx.state = .idle) :
    t.rx = s.rx ∨
      (∃ n cmds, i = .host .rxCmd ∧ s.ports.rxCmd = n :: cmds ∧ t.ports.rxCmd = cmds ∧
        s.cfg.rst = false ∧ t.rx = { s.rx with tmo := n, acc := 0, idx := 0, state := .sync1 }) ∨
      (∃ level, i = .rst level ∧ t.rx.state = .idle) := by
  cases hm with
  | decode _ n cmds hc _ hrst => exact .inr (.inl ⟨n, cmds, rfl, hc, rfl, hrst, rfl⟩)
  | rst level => exact .inr (.inr ⟨level, rfl, rfl⟩)
  | rxres _ _ _ _ hs | readFailed _ _ _ hs | readByte _ _ _ _ _ hs | probe _ _ hs =>
    simp [hidle, RxState.reads] at hs
  | _ => exact .inl rfl

/-- What acceptance leaves of a record whose len is its payload's length (R56, R76). -/
theorem TxRegs.accept_cases (r : TxRegs) {c : TxCmdRecord} (hl : c.payload.length = c.len.toNat) :
    ((r.accept c.wireType c.hasChecksum c.payload).state = .sync1 ∧
      (r.accept c.wireType c.hasChecksum c.payload).wireType = c.wireType ∧
      (r.accept c.wireType c.hasChecksum c.payload).hc = c.hasChecksum ∧
      (r.accept c.wireType c.hasChecksum c.payload).len = c.len) ∨
    r.accept c.wireType c.hasChecksum c.payload = { r with status := .refusedLength, state := .done } := by
  unfold TxRegs.accept
  split
  · exact .inr rfl
  · exact .inl ⟨rfl, rfl, rfl, by simp [hl]⟩

/-- Settles O60: a turn without a step of its own waits, and the moves that change an idle engine's registers are
those of `Move.tx_of_idle` and `Move.rx_of_idle`. -/
theorem idleEnginesHoldTheirState : Obligations.IdleEnginesHoldTheirState := by
  unfold Obligations.IdleEnginesHoldTheirState
  refine ⟨fun s rest => ⟨step_nil s, fun a => step_framer_waits, fun d => step_deframer_waits⟩, ?_⟩
  intro s t hstep
  rcases step_cases s t hstep with ⟨-, rfl⟩ | ⟨i, rest, htape, hmove⟩
  · exact ⟨fun _ hne => absurd rfl hne, fun _ hne => absurd rfl hne⟩
  · refine ⟨fun hidle hne => ?_, fun hidle hne => ?_⟩
    · rcases hmove.tx_of_idle hidle with hsame | ⟨r, cmds, rfl, hc, hl, hrst, hcmds, htx⟩ | ⟨level, rfl, hs⟩
      · exact absurd hsame hne
      · rw [htx]
        exact .inl ⟨r, cmds, rest, htape, hc, hcmds, hrst, s.tx.accept_cases hl⟩
      · exact .inr ⟨level, rest, htape, hs⟩
    · rcases hmove.rx_of_idle hidle with hsame | ⟨n, cmds, rfl, hc, hcmds, hrst, hrx⟩ | ⟨level, rfl, hs⟩
      · exact absurd hsame hne
      · exact .inl ⟨n, cmds, rest, htape, hc, hcmds, hrst, hrx⟩
      · exact .inr ⟨level, rest, htape, hs⟩

end Sys2Proof.Machine

namespace Sys2Proof.Machine

/-!
### The host's handshakes and the deframer's turns (42_deframer.md R91 to R101)

A turn whose Read is answered with a byte is said once (`step_byte`), with no assumption on the registers but an
index inside the buffer in RX_PAYLOAD; a turn whose Read fails is `step_readFailed`, the probe's `step_probe`.
-/

/-- Settles O14: an idle deframer out of reset takes the command, any other lets it wait. -/
theorem decodeStartsAFrame : Obligations.DecodeStartsAFrame := by
  unfold Obligations.DecodeStartsAFrame
  exact fun s n => ⟨fun hidle hrst => if_pos ⟨hidle, hrst⟩, fun hbusy => exec_decode_of_busy hbusy n⟩

theorem exec_rxres_of_result {s : State} (h : s.rx.state = .done ∨ s.rx.state = .failed) (v : Nat) :
    exec (.rxres v) s =
      .next
        { s with
          rx := s.rx.toIdle
          ports :=
            { s.ports.take .rxRes with vars := writeVar v (.rxRes s.rx.record) s.ports.vars } } :=
  if_pos h

/-- RX_DONE offers the Packet (R60, R101). -/
theorem RxRegs.record_of_done {r : RxRegs} (h : r.state = .done) :
    r.record = .packet r.status r.kind r.wireType r.hc r.size (Buf.take r.buf r.size.toNat) :=
  if_pos h

/-- Everywhere else the record has status and phase only (R60, R101). -/
theorem RxRegs.record_of_not_done {r : RxRegs} (h : r.state ≠ .done) :
    r.record = .failure r.status r.phase :=
  if_neg h

/-- Settles O15: the handshake writes the record of the result state into the one variable and sends the deframer
to idle; without a result it waits. -/
theorem rxresHandsOverTheRecord : Obligations.RxresHandsOverTheRecord := by
  unfold Obligations.RxresHandsOverTheRecord
  intro s v
  refine ⟨fun hresult => ?_, fun hdone hfailed => ?_⟩
  · have hwritten := readVar_writeVar_self v (.rxRes s.rx.record) s.ports.vars
    refine ⟨_, exec_rxres_of_result hresult v, rfl, fun hdone => ?_, fun hfailed => ?_,
      fun w hw => readVar_writeVar_other v w _ _ hw, rfl, rfl, rfl, rfl, rfl, rfl, rfl, rfl, rfl, rfl, rfl⟩
    · rw [RxRegs.record_of_done hdone] at hwritten ⊢
      exact hwritten
    · rw [RxRegs.record_of_not_done (by simp [hfailed])] at hwritten ⊢
      exact hwritten
  · exact exec_rxres_of_no_result (by simp [hdone, hfailed]) v

/-! ### One Read of the deframer's turn -/

section ReadTurn
variable {s : State} {rest : List Input} {d : Draw} {b : Byte}

theorem receiveByte_of_byte (hb : s.link.readAnswer d = .byte b) (g : Byte → RxRegs) :
    s.receiveByte d g = s.tookByte s.tape b (g b) := by
  simp only [State.receiveByte, State.afterRead, hb, Transport.afterRead_of_byte _ _ hb, State.tookByte]

/-- The deframer's turn in a reading state but RX_TYPE is one Read (R33). -/
theorem rxStep_of_reads (hreads : s.rx.state.reads = true) (htype : s.rx.state ≠ .type)
    (hidx : s.rx.state = .payload → s.rx.idx.toNat < 256) :
    rxStep d s = .next (s.receiveByte d (s.rx.afterByte s.cfg.kind3b)) := by
  cases hs : s.rx.state with
  | sync1 => simp only [rxStep, hs, rxSync1Step, RxRegs.afterByte_sync1 _ _ hs]
  | sync2 => simp only [rxStep, hs, rxSync2Step, RxRegs.afterByte_sync2 _ _ hs]
  | type => exact absurd hs htype
  | len => simp only [rxStep, hs, rxLenStep, RxRegs.afterByte_len _ _ hs]
  | payload => simp only [rxStep, hs, rxPayloadStep_eq d s hs (hidx hs)]
  | ck => simp only [rxStep, hs, rxCkStep, RxRegs.afterByte_ck _ _ hs]
  | idle | probe | done | failed => simp [hs, RxState.reads] at hreads

/-- The deframer's turn in a reading state, when its Read answers a byte (R92 to R94, R96 to R98). -/
theorem step_byte (htape : s.tape = .deframer d :: rest) (hrst : s.cfg.rst = false)
    (hreads : s.rx.state.reads = true) (hidx : s.rx.state = .payload → s.rx.idx.toNat < 256)
    (hb : s.link.readAnswer d = .byte b) :
    step s = .next (s.tookByte rest b (s.rx.afterByte s.cfg.kind3b b)) := by
  have htook := receiveByte_of_byte (s := { s with tape := rest }) hb (s.rx.afterByte s.cfg.kind3b)
  by_cases hs : s.rx.state = .type
  · rw [step_deframer_type s d rest htape hrst hs, fetchHeader_outcome,
      ← RxRegs.afterByte_type s.cfg.kind3b s.rx hs]
    exact congrArg _ htook
  · rw [step_deframer s d rest htape hrst hs,
      rxStep_of_reads (s := { s with tape := rest }) hreads hs hidx]
    exact congrArg _ htook

end ReadTurn

/-- What RX_TYPE's dispatch leaves, in the catalog's terms and with the TYPE byte read (R94). -/
theorem RxRegs.dispatch_eq (r : RxRegs) (kind3b : Bool) (t : Byte) :
    r.dispatch kind3b t =
      match kindFor kind3b t with
      | some k =>
        if (framingFor k).size = 0 then
          { r with
            wireType := t, kind := .known k, hc := (framingFor k).hc, size := (framingFor k).size,
            status := .ok, state := .done }
        else
          { r with
            wireType := t, kind := .known k, hc := (framingFor k).hc, size := (framingFor k).size,
            state := .len }
      | none => { r with wireType := t, kind := .unknown, hc := true, state := .probe } := by
  unfold RxRegs.dispatch
  cases hk : kindFor kind3b t with
  | none => rfl
  | some k =>
    dsimp only
    rw [← framingFor_kindFor hk]
    split
    · rename_i hzero
      exact r.dispatchKnown_of_size_eq_zero hzero
    · rename_i hsize
      exact r.dispatchKnown_of_size_ne_zero hsize

/-- Settles O18: a byte is dispatched (`step_byte`, `RxRegs.dispatch_eq`), any other answer fails the frame. -/
theorem typeStepDispatchesByTheCatalog : Obligations.TypeStepDispatchesByTheCatalog := by
  unfold Obligations.TypeStepDispatchesByTheCatalog
  intro s d rest htape hrst hs
  have hreads : s.rx.state.reads = true := by rw [hs]; rfl
  cases ha : s.link.readAnswer d with
  | byte t =>
    have hstep := step_byte htape hrst hreads (by simp [hs]) ha
    rw [RxRegs.afterByte_type _ _ hs, RxRegs.dispatch_eq] at hstep
    exact hstep
  | timeout => exact (step_readFailed htape hrst hreads (by simp [ha])).trans (by rw [ha])
  | error => exact (step_readFailed htape hrst hreads (by simp [ha])).trans (by rw [ha])

/-- Settles O20: the byte is compared by `RxRegs.afterByte`; without one the frame fails. -/
theorem syncStepsCheckTheirByte : Obligations.SyncStepsCheckTheirByte := by
  unfold Obligations.SyncStepsCheckTheirByte
  intro s d rest htape hrst
  refine ⟨fun b hb => ⟨fun hs => ?_, fun hs => ?_⟩, fun hno hs => ?_⟩
  · rw [step_byte htape hrst (by rw [hs]; rfl) (by simp [hs]) hb, RxRegs.afterByte_sync1 _ _ hs]
    rfl
  · rw [step_byte htape hrst (by rw [hs]; rfl) (by simp [hs]) hb, RxRegs.afterByte_sync2 _ _ hs]
    rfl
  · exact step_readFailed htape hrst (by rcases hs with hs | hs <;> rw [hs] <;> rfl) hno

/-- Settles O21: the turn is one Peek (`step_probe`); what each answer does to the Transport is
`afterPeek_cases`. -/
theorem probeDecidesByTheAnswer : Obligations.ProbeDecidesByTheAnswer := by
  unfold Obligations.ProbeDecidesByTheAnswer
  intro s d rest htape hrst hs
  refine ⟨_, step_probe htape hrst hs, s.link.afterPeek_unread _ d, rfl, rfl, rfl, rfl, rfl,
    s.link.afterPeek_sink _ d, s.link.afterPeek_txLog _ d, s.link.afterPeek_isOpen _ d,
    s.link.afterPeek_avail _ d, s.link.afterPeek_rxLog _ d, ?_⟩
  rcases afterPeek_cases s.link s.cfg.peekTimeout d with ⟨b, _, -, ha, -, he⟩ | ⟨ha, he⟩ | ⟨ha, he⟩ <;>
    simp [ha, he, RxRegs.afterPeekAnswer, RxRegs.finish, RxRegs.raise]

/-- RX_LEN of a known kind (R96). -/
theorem RxRegs.afterLenByte_of_known {r : RxRegs} (h : r.kind ≠ .unknown) (l : Byte) :
    r.afterLenByte l =
      if l.toNat = expectedLen r.size r.hc then { r with state := .payload }
      else r.raise .lengthMismatch .len := by
  unfold RxRegs.afterLenByte
  cases hk : r.kind with
  | known k => rfl
  | unknown => exact absurd hk h

/-- RX_LEN of an unknown type (R96). -/
theorem RxRegs.afterLenByte_of_unknown {r : RxRegs} (h : r.kind = .unknown) (l : Byte) :
    r.afterLenByte l =
      if l = 0 then r.raise .lengthMismatch .len
      else if l = 1 then { r with size := 0, state := .ck }
      else { r with size := l - 1, state := .payload } := by
  simp only [RxRegs.afterLenByte, h]
  split_ifs with _ hone
  · rfl
  · subst hone
    rfl
  · rfl

theorem expectedLen_eq (size : Byte) (hc : Bool) :
    expectedLen size hc = size.toNat + if hc then 1 else 0 := by
  cases hc <;> rfl

/-- Settles O22: the two tests of RX_LEN are `RxRegs.afterLenByte_of_known` and
`RxRegs.afterLenByte_of_unknown`. -/
theorem lenStepChecksTheLength : Obligations.LenStepChecksTheLength := by
  unfold Obligations.LenStepChecksTheLength
  intro s d rest htape hrst hs
  have hreads : s.rx.state.reads = true := by rw [hs]; rfl
  refine ⟨fun l hl => ?_, step_readFailed htape hrst hreads⟩
  rw [step_byte htape hrst hreads (by simp [hs]) hl, RxRegs.afterByte_len _ _ hs]
  refine ⟨fun hknown => ?_, fun hunknown => ?_⟩
  · rw [RxRegs.afterLenByte_of_known hknown, expectedLen_eq]
    rfl
  · rw [RxRegs.afterLenByte_of_unknown hunknown]
    rfl

/-- The registers RX_PAYLOAD leaves, with the 9-bit index counted up (R97). -/
theorem RxRegs.afterPayloadByte_eq (r : RxRegs) (b : Byte) (buf : Buf) :
    r.afterPayloadByte b buf =
      if r.idx.toNat + 1 < r.size.toNat then { r with buf := buf, acc := r.acc + b, idx := r.idx + 1 }
      else if r.hc = true then { r with buf := buf, acc := r.acc + b, idx := r.idx + 1, state := .ck }
      else { r with buf := buf, acc := r.acc + b, idx := r.idx + 1, status := .ok, state := .done } := by
  have hidx : BitVec.ofNat 9 (r.idx.toNat + 1) = r.idx + 1 := BitVec.eq_of_toNat_eq (by simp)
  simp only [RxRegs.afterPayloadByte, hidx, RxRegs.finish]

/-- Settles O23: the buffer written at rx_idx alone is the witness; the index is inside it, below rx_size. -/
theorem payloadStepStoresTheByte : Obligations.PayloadStepStoresTheByte := by
  unfold Obligations.PayloadStepStoresTheByte
  intro s d rest htape hrst hs hsize
  have hreads : s.rx.state.reads = true := by rw [hs]; rfl
  have hidx : s.rx.idx.toNat < 256 := Nat.lt_trans hsize s.rx.size.isLt
  refine ⟨fun b hb => ⟨s.rx.buf.setIfInBounds s.rx.idx.toNat b, ?_, fun j hj => ?_, ?_⟩,
    step_readFailed htape hrst hreads⟩
  · exact (Vector.getElem?_setIfInBounds_self_of_lt hidx)
  · exact Vector.getElem?_setIfInBounds_ne (Ne.symm hj)
  · rw [step_byte htape hrst hreads (fun _ => hidx) hb, RxRegs.afterByte_payload _ _ hs]
    exact congrArg (fun r => Host.Outcome.next (s.tookByte rest b r)) (s.rx.afterPayloadByte_eq b _)

/-- Settles O24: the byte is added, and the sum tested (`RxRegs.afterCkByte`). -/
theorem ckStepValidatesTheSum : Obligations.CkStepValidatesTheSum := by
  unfold Obligations.CkStepValidatesTheSum
  intro s d rest htape hrst hs
  have hreads : s.rx.state.reads = true := by rw [hs]; rfl
  refine ⟨fun b hb => ?_, step_readFailed htape hrst hreads⟩
  rw [step_byte htape hrst hreads (by simp [hs]) hb, RxRegs.afterByte_ck _ _ hs, RxRegs.afterCkByte]
  split
  · rename_i hsum
    rw [hsum]
    rfl
  · rfl

/-- Settles O25: the failed Read is `step_readFailed`, whose registers offer no Packet; the probe is
`step_probe`. -/
theorem readFailureRaisesTransportFailure : Obligations.ReadFailureRaisesTransportFailure := by
  unfold Obligations.ReadFailureRaisesTransportFailure
  intro s d rest htape hrst
  refine ⟨fun hreads hno => ⟨step_readFailed htape hrst hreads hno, rfl, rfl⟩, fun hs =>
    ⟨_, step_probe htape hrst hs, fun ha => ?_, fun ha => ?_⟩⟩
  · rw [ha]
    exact s.rx.record_raise .transportFailure .probe
  · rw [ha]
    exact ⟨rfl, rfl⟩

end Sys2Proof.Machine

namespace Sys2Proof.Machine

/-!
### The reference decode (42_deframer.md R102 to R105)

`Expects` names the framings with a body that decode knows at a TYPE byte. Under one of them, behind the LEN byte
the framer writes, decode is `decodeBody` (`Expects.decodeStream`), which takes a frame's own bytes
(`decodeBody_frame`) and tests the sum of a checked body (`decodeBody_checked`).
-/

/-- At TYPE byte `t` a body of `size` payload bytes, checked or not by `hc`, can follow a LEN byte, and is a frame
of `kind` (R94, R96). -/
def Expects (kind3b : Bool) (t : Byte) (kind : KindId) (size : Byte) (hc : Bool) : Prop :=
  match kind with
  | .known k =>
    kindFor kind3b t = some k ∧ hc = (framingFor k).hc ∧ size = (framingFor k).size ∧ size ≠ 0
  | .unknown => kindFor kind3b t = none ∧ hc = true ∧ size.toNat ≤ 254

/-! ### decode by the bytes after TYPE -/

theorem decodeStream_header (kind3b : Bool) (t : Byte) (rest : List Byte) :
    decodeStream kind3b (0xAA :: 0x55 :: t :: rest) = decodeAfterType kind3b t rest := by
  simp [decodeStream]

section AfterType
variable {kind3b : Bool} {t : Byte} {k : Kind}

/-- A kind without payload is complete at TYPE (R94, C2). -/
theorem decodeAfterType_of_size_eq_zero (hk : kindFor kind3b t = some k)
    (hsize : (framingFor k).size = 0) (rest : List Byte) :
    decodeAfterType kind3b t rest = (.packet .ok (.known k) t (framingFor k).hc 0 [], 3) := by
  simp only [decodeAfterType, hk, if_pos hsize]

theorem decodeAfterType_known_nil (hk : kindFor kind3b t = some k) (hsize : (framingFor k).size ≠ 0) :
    decodeAfterType kind3b t [] = (.failure .transportFailure .len, 3) := by
  simp only [decodeAfterType, hk, if_neg hsize]

theorem decodeAfterType_known_cons (hk : kindFor kind3b t = some k) (hsize : (framingFor k).size ≠ 0)
    (l : Byte) (body : List Byte) :
    decodeAfterType kind3b t (l :: body) =
      if l.toNat = expectedLen (framingFor k).size (framingFor k).hc then
        decodeBody (.known k) t (framingFor k).size.toNat (framingFor k).hc body
      else (.failure .lengthMismatch .len, 4) := by
  simp only [decodeAfterType, hk, if_neg hsize]

theorem decodeAfterType_unknown_nil (hk : kindFor kind3b t = none) :
    decodeAfterType kind3b t [] = (.packet .okUnknownNoLen .unknown t true 0 [], 3) := by
  simp only [decodeAfterType, hk]

theorem decodeAfterType_unknown_cons (hk : kindFor kind3b t = none) (l : Byte) (body : List Byte) :
    decodeAfterType kind3b t (l :: body) =
      if l = 0 then (.failure .lengthMismatch .len, 4)
      else decodeBody .unknown t (l.toNat - 1) true body := by
  simp only [decodeAfterType, hk]

end AfterType

section Expects
variable {kind3b : Bool} {t : Byte} {kind : KindId} {size : Byte} {hc : Bool}

theorem Expects.size_le (h : Expects kind3b t kind size hc) : size.toNat ≤ 254 := by
  cases kind with
  | known k =>
    obtain ⟨-, -, rfl, -⟩ := h
    exact framingFor_size_le k
  | unknown =>
    obtain ⟨-, -, hle⟩ := h
    exact hle

/-- The LEN byte of an expected frame does not wrap (R80, R96). -/
theorem Expects.lenByte_toNat (h : Expects kind3b t kind size hc) :
    (lenByte size hc).toNat = expectedLen size hc := by
  refine Machine.lenByte_toNat size hc ?_
  rintro ⟨-, rfl⟩
  exact absurd h.size_le (by decide)

/-- Behind its LEN byte an expected frame is decoded by its body (R96). -/
theorem Expects.decodeStream (h : Expects kind3b t kind size hc) (body : List Byte) :
    decodeStream kind3b (0xAA :: 0x55 :: t :: lenByte size hc :: body) =
      decodeBody kind t size.toNat hc body := by
  have hlen := h.lenByte_toNat
  rw [decodeStream_header]
  cases kind with
  | known k =>
    obtain ⟨hk, rfl, rfl, hsize⟩ := h
    rw [decodeAfterType_known_cons hk hsize, if_pos hlen]
  | unknown =>
    obtain ⟨hk, rfl, -⟩ := h
    have hlen : (lenByte size true).toNat = size.toNat + 1 := hlen
    have hne : lenByte size true ≠ 0 := by
      intro h0
      simp [h0] at hlen
    rw [decodeAfterType_unknown_cons hk, if_neg hne, hlen, Nat.add_sub_cancel]

end Expects

/-! ### The body of a frame -/

section Body
variable (kind : KindId) (t : Byte)

theorem decodeBody_short {n : Nat} {body : List Byte} (h : body.length < n) (hc : Bool) :
    decodeBody kind t n hc body = (.failure .transportFailure .payload, 4 + body.length) :=
  if_pos h

theorem decodeBody_unchecked (q rest : List Byte) :
    decodeBody kind t q.length false (q ++ rest) =
      (.packet .ok kind t false (BitVec.ofNat 8 q.length) q, 4 + q.length) := by
  simp [decodeBody]

theorem decodeBody_no_ck (q : List Byte) :
    decodeBody kind t q.length true q = (.failure .transportFailure .ck, 4 + q.length) := by
  simp [decodeBody]

/-- The checksum byte is added to the payload's sum, and the whole must be 0 (R98, R105). -/
theorem decodeBody_checked (q : List Byte) (c : Byte) (rest : List Byte) :
    decodeBody kind t q.length true (q ++ c :: rest) =
      if sum8 (q ++ [c]) = 0 then (.packet .ok kind t true (BitVec.ofNat 8 q.length) q, 5 + q.length)
      else (.failure .checksumMismatch .ck, 5 + q.length) := by
  simp [decodeBody, sum8_append]

/-- Payload and checksum byte sum to 0 (R52). -/
theorem sum8_append_checksumOf (p : List Byte) : sum8 (p ++ [checksumOf p]) = 0 := by
  simp [sum8_append, sum8_add_checksumOf]

/-- The bytes that the framer writes behind LEN are taken whole (R75, R104). -/
theorem decodeBody_frame (p : List Byte) (hc : Bool) (rest : List Byte) :
    decodeBody kind t p.length hc ((p ++ if hc then [checksumOf p] else []) ++ rest) =
      (.packet .ok kind t hc (BitVec.ofNat 8 p.length) p, p.length + 4 + if hc then 1 else 0) := by
  cases hc with
  | false => simpa [Nat.add_comm] using decodeBody_unchecked kind t p rest
  | true =>
    rw [if_pos rfl, if_pos rfl, List.append_assoc, List.singleton_append, decodeBody_checked,
      if_pos (sum8_append_checksumOf p), show 5 + p.length = p.length + 4 + 1 by omega]

end Body

section Expects
variable {kind3b : Bool} {t : Byte} {kind : KindId} {size : Byte} {q : List Byte}

/-- An expected frame without checksum is any payload of its size (R97). -/
theorem Expects.decodeStream_unchecked (h : Expects kind3b t kind size false) (hq : q.length = size.toNat)
    (rest : List Byte) :
    Machine.decodeStream kind3b ((0xAA :: 0x55 :: t :: lenByte size false :: q) ++ rest) =
      (.packet .ok kind t false size q, (0xAA :: 0x55 :: t :: lenByte size false :: q).length) := by
  have hlen : (0xAA :: 0x55 :: t :: lenByte size false :: q).length = 4 + size.toNat := by
    simp only [List.length_cons, hq]
    omega
  rw [hlen]
  simp only [List.cons_append]
  rw [h.decodeStream, ← hq, decodeBody_unchecked, hq, BitVec.ofNat_toNat, BitVec.setWidth_eq]

/-- An expected frame with checksum, by the sum of its payload and its last byte (R98). -/
theorem Expects.decodeStream_checked (h : Expects kind3b t kind size true) (hq : q.length = size.toNat)
    (c : Byte) (rest : List Byte) :
    Machine.decodeStream kind3b ((0xAA :: 0x55 :: t :: lenByte size true :: q) ++ c :: rest) =
      if sum8 (q ++ [c]) = 0 then
        (.packet .ok kind t true size q, (0xAA :: 0x55 :: t :: lenByte size true :: q ++ [c]).length)
      else
        (.failure .checksumMismatch .ck, (0xAA :: 0x55 :: t :: lenByte size true :: q ++ [c]).length) := by
  have hlen : (0xAA :: 0x55 :: t :: lenByte size true :: q ++ [c]).length = 5 + size.toNat := by
    simp only [List.length_append, List.length_cons, List.length_nil, hq]
    omega
  rw [hlen]
  simp only [List.cons_append]
  rw [h.decodeStream, ← hq, decodeBody_checked, hq, BitVec.ofNat_toNat, BitVec.setWidth_eq]

end Expects

/-! ### The round trip (R104) -/

/-- decode of the frame of an expected, non-empty payload gives the Packet back and takes the whole frame. -/
theorem Expects.decodeStream_frameOf {kind3b : Bool} {t : Byte} {kind : KindId} {p : List Byte} {hc : Bool}
    (h : Expects kind3b t kind (BitVec.ofNat 8 p.length) hc)
    (hp : (BitVec.ofNat 8 p.length).toNat = p.length) (hne : p ≠ []) (rest : List Byte) :
    Machine.decodeStream kind3b (frameOf ⟨t, p, hc⟩ ++ rest) =
      (.packet .ok kind t hc (BitVec.ofNat 8 p.length) p, (frameOf ⟨t, p, hc⟩).length) := by
  rw [frameOf_length, if_neg hne, frameOf_of_ne_nil t hc hne]
  simp only [List.cons_append]
  rw [h.decodeStream, hp, decodeBody_frame]

/-- The frame of a Packet without payload is its header (R75). -/
theorem decodeStream_frameOf_nil (kind3b : Bool) (t : Byte) (hc : Bool) (rest : List Byte) :
    decodeStream kind3b (frameOf ⟨t, [], hc⟩ ++ rest) = decodeAfterType kind3b t rest := by
  rw [frameOf_nil]
  exact decodeStream_header kind3b t rest

/-- An unknown type's checked payload of 1 to 254 bytes is expected (R96). -/
theorem expects_unknown {kind3b : Bool} {t : Byte} (hk : kindFor kind3b t = none) {p : List Byte}
    (hp : p.length ≤ 254) :
    Expects kind3b t .unknown (BitVec.ofNat 8 p.length) true ∧
      (BitVec.ofNat 8 p.length).toNat = p.length := by
  have hlen : (BitVec.ofNat 8 p.length).toNat = p.length := Nat.mod_eq_of_lt (by omega)
  exact ⟨⟨hk, rfl, hlen.le.trans hp⟩, hlen⟩

/-- A known kind's payload of the catalog's size, if it has any, is expected (R96). -/
theorem expects_known {kind3b : Bool} {t : Byte} {k : Kind} (hk : kindFor kind3b t = some k) {p : List Byte}
    (hp : p.length = (framingFor k).size.toNat) (hne : p ≠ []) :
    Expects kind3b t (.known k) (BitVec.ofNat 8 p.length) (framingFor k).hc ∧
      (BitVec.ofNat 8 p.length).toNat = p.length := by
  have hsize : BitVec.ofNat 8 p.length = (framingFor k).size := by rw [hp, BitVec.ofNat_toNat]; simp
  refine ⟨⟨hk, rfl, hsize, fun h0 => hne ?_⟩, by rw [hsize, hp]⟩
  rw [← hsize, h0] at hp
  exact List.length_eq_zero_iff.mp hp

/-- The only kinds that their own TYPE byte does not select are the 0x3B kind of the other cfg_kind_3b (R73). -/
theorem kindFor_wireType_ne_iff (kind3b : Bool) (k : Kind) :
    kindFor kind3b (framingFor k).wireType ≠ some k ↔
      (k = .joyVersionRequestResponse ∧ kind3b = false) ∨ (k = .joyStatusRequest ∧ kind3b = true) := by
  cases k <;> cases kind3b <;> decide

/-! ### What decode can answer (R102, R103) -/

/-- `DecodeCase bs a`: decode of the stream `bs` can give the answer `a`, a record and the bytes consumed. -/
inductive DecodeCase (bs : List Byte) : RxRecord × Nat → Prop where
  /-- the stream ends within the frame -/
  | streamEnds (phase : RxState) : DecodeCase bs (.failure .transportFailure phase, bs.length)
  | badSync1 (hlen : 1 ≤ bs.length) : DecodeCase bs (.failure .resync .sync1, 1)
  | badSync2 (hlen : 2 ≤ bs.length) : DecodeCase bs (.failure .resync .sync2, 2)
  /-- a known kind without payload -/
  | atType (k : Kind) (t : Byte) (hc : Bool) (hsize : (framingFor k).size = 0) (hlen : 3 ≤ bs.length) :
    DecodeCase bs (.packet .ok (.known k) t hc 0 [], 3)
  /-- an unknown type with nothing behind it -/
  | noLen (t : Byte) (hlen : 3 ≤ bs.length) :
    DecodeCase bs (.packet .okUnknownNoLen .unknown t true 0 [], 3)
  | badLen (hlen : 4 ≤ bs.length) : DecodeCase bs (.failure .lengthMismatch .len, 4)
  | badSum (l : Byte) (hl : bs[3]? = some l) (hlen : 4 + l.toNat ≤ bs.length) :
    DecodeCase bs (.failure .checksumMismatch .ck, 4 + l.toNat)
  /-- a body taken whole -/
  | full (kind : KindId) (t : Byte) (hc : Bool) (len : Byte) (p : List Byte) (l : Byte)
    (hl : bs[3]? = some l) (hlen : 4 + l.toNat ≤ bs.length)
    (hknown : ∀ k, kind = .known k → (framingFor k).size ≠ 0) (hunknown : kind = .unknown → hc = true) :
    DecodeCase bs (.packet .ok kind t hc len p, 4 + l.toNat)

/-- A body behind a LEN byte that counts its payload and its checksum byte. -/
theorem decodeBody_case {b0 b1 t l : Byte} {body : List Byte} {kind : KindId} {n : Nat} {hc : Bool}
    (hl : l.toNat = n + if hc then 1 else 0)
    (hknown : ∀ k, kind = .known k → (framingFor k).size ≠ 0) (hunknown : kind = .unknown → hc = true) :
    DecodeCase (b0 :: b1 :: t :: l :: body) (decodeBody kind t n hc body) := by
  by_cases hshort : body.length < n
  · rw [decodeBody_short kind t hshort, Nat.add_comm]
    exact .streamEnds .payload
  · obtain ⟨q, rest, rfl, rfl⟩ : ∃ q rest, body = q ++ rest ∧ n = q.length :=
      ⟨body.take n, body.drop n, (List.take_append_drop n body).symm, by simp; omega⟩
    cases hc with
    | false =>
      have hl : l.toNat = q.length := hl
      rw [decodeBody_unchecked, ← hl]
      exact .full kind t false _ q l rfl (by simp; omega) hknown hunknown
    | true =>
      have hl : l.toNat = q.length + 1 := hl
      cases rest with
      | nil =>
        rw [List.append_nil, decodeBody_no_ck, Nat.add_comm]
        exact .streamEnds .ck
      | cons c rest =>
        rw [decodeBody_checked, show 5 + q.length = 4 + l.toNat by omega]
        split
        · exact .full kind t true _ q l rfl (by simp; omega) hknown hunknown
        · exact .badSum l rfl (by simp; omega)

theorem decodeAfterType_case (kind3b : Bool) (b0 b1 t : Byte) (rest : List Byte) :
    DecodeCase (b0 :: b1 :: t :: rest) (decodeAfterType kind3b t rest) := by
  cases hk : kindFor kind3b t with
  | some k =>
    by_cases hsize : (framingFor k).size = 0
    · rw [decodeAfterType_of_size_eq_zero hk hsize]
      exact .atType k t _ hsize (by simp)
    · cases rest with
      | nil =>
        rw [decodeAfterType_known_nil hk hsize]
        exact .streamEnds .len
      | cons l body =>
        rw [decodeAfterType_known_cons hk hsize]
        split
        · rename_i hl
          refine decodeBody_case (hl.trans (expectedLen_eq _ _)) (fun k' hk' => ?_) nofun
          cases hk'
          exact hsize
        · exact .badLen (by simp)
  | none =>
    cases rest with
    | nil =>
      rw [decodeAfterType_unknown_nil hk]
      exact .noLen t (by simp)
    | cons l body =>
      rw [decodeAfterType_unknown_cons hk]
      split
      · exact .badLen (by simp)
      · rename_i hne
        have hpos : l.toNat ≠ 0 := fun h0 => hne (BitVec.eq_of_toNat_eq h0)
        exact decodeBody_case (by simp; omega) nofun fun _ => rfl

theorem decodeStream_case (kind3b : Bool) (bs : List Byte) : DecodeCase bs (decodeStream kind3b bs) := by
  match bs with
  | [] => exact .streamEnds .sync1
  | b0 :: s1 =>
    by_cases h0 : b0 = 0xAA
    · match s1 with
      | [] =>
        simp only [decodeStream, if_pos h0]
        exact .streamEnds .sync2
      | b1 :: s2 =>
        by_cases h1 : b1 = 0x55
        · match s2 with
          | [] =>
            simp only [decodeStream, if_pos h0, if_pos h1]
            exact .streamEnds .type
          | t :: rest =>
            simp only [decodeStream, if_pos h0, if_pos h1]
            exact decodeAfterType_case kind3b b0 b1 t rest
        · simp only [decodeStream, if_pos h0, if_neg h1]
          exact .badSync2 (by simp)
    · simp only [decodeStream, if_neg h0]
      exact .badSync1 (by simp)

/-- Settles O33: each of the cases of `decodeStream_case` with its count. -/
theorem consumedBytesPerOutcome : Obligations.ConsumedBytesPerOutcome := by
  unfold Obligations.ConsumedBytesPerOutcome
  intro c bs r n hdecode
  have hcase := decodeStream_case c bs
  rw [hdecode] at hcase
  cases hcase with
  | streamEnds phase => simp
  | badSync1 hlen => simpa using hlen
  | badSync2 hlen => simpa using hlen
  | atType k t hc hsize hlen =>
    refine ⟨hlen, nofun, nofun, fun _ _ _ _ _ _ _ => rfl, nofun, nofun, nofun,
      fun k' _ _ _ _ hr hne => ?_, nofun, nofun⟩
    cases hr
    exact absurd hsize hne
  | noLen t hlen => simpa using hlen
  | badLen hlen => simpa using hlen
  | badSum l hl hlen => simpa [hl] using hlen
  | full kind t hc len p l hl hlen hknown hunknown =>
    refine ⟨hlen, nofun, nofun, fun k _ _ _ _ hr hsize => ?_, nofun, nofun, nofun,
      fun k _ _ _ _ _ _ => ⟨l, hl, rfl⟩, fun _ _ _ _ _ => ⟨l, hl, rfl⟩, nofun⟩
    cases hr
    exact absurd hsize (hknown k rfl)

/-- A decoded unknown type always carries has_checksum = 1 (R102, R104). -/
theorem DecodeCase.hc_of_unknown {bs : List Byte} {a : RxRecord × Nat} (h : DecodeCase bs a) {st : Status}
    {t : Byte} {hc : Bool} {len : Byte} {p : List Byte} {n : Nat}
    (ha : a = (.packet st .unknown t hc len p, n)) : hc = true := by
  cases h with
  | full _ _ _ _ _ _ _ _ _ hunknown =>
    cases ha
    exact hunknown rfl
  | noLen => cases ha; rfl
  | _ => cases ha

/-- Settles O34: an expected payload round-trips by `Expects.decodeStream_frameOf`, an empty one is complete at
TYPE or at the probe, and the 0x3B kind not selected is decoded as the other. -/
theorem roundTrip : Obligations.RoundTrip := by
  unfold Obligations.RoundTrip
  refine ⟨fun c k p rest hp hk => ?_, kindFor_wireType_ne_iff, fun a b rest => ⟨?_, rfl⟩,
    ⟨?_, fun b rest hb => ?_⟩, fun c t p rest hk hpos hp => ?_, fun c t hk => ?_,
    fun c bs st t hc len p n hdecode => (decodeStream_case c bs).hc_of_unknown hdecode⟩
  · by_cases hne : p = []
    · subst hne
      have hsize : (framingFor k).size = 0 := BitVec.eq_of_toNat_eq hp.symm
      rw [decodeStream_frameOf_nil, decodeAfterType_of_size_eq_zero hk hsize, hsize]
      rfl
    · obtain ⟨hexpects, hlen⟩ := expects_known hk hp hne
      have ⟨_, _, hsize, _⟩ := hexpects
      rw [hexpects.decodeStream_frameOf hlen hne, hsize]
  · exact (decodeStream_header false 0x3B _).trans
      (decodeAfterType_of_size_eq_zero (k := .joyStatusRequest) rfl rfl _)
  · exact (decodeStream_header true 0x3B []).trans
      (decodeAfterType_known_nil (k := .joyVersionRequestResponse) rfl (by decide))
  · rw [decodeStream_frameOf_nil,
      decodeAfterType_known_cons (k := .joyVersionRequestResponse) rfl (by decide)]
    exact if_neg fun hlen => hb (BitVec.eq_of_toNat_eq hlen)
  · have hne : p ≠ [] := List.ne_nil_of_length_pos hpos
    obtain ⟨hexpects, hlen⟩ := expects_unknown hk hp
    rw [hexpects.decodeStream_frameOf hlen hne, frameOf_length, if_neg hne]
    rfl
  · exact (decodeStream_header c t []).trans (decodeAfterType_unknown_nil hk)

/-! ### Flipped bits (R105) -/

/-- Another byte in one place gives another sum. -/
theorem eq_of_sum8_modify_eq {f : Byte → Byte} : ∀ {xs : List Byte} {j : Nat} (hj : j < xs.length),
    sum8 (xs.modify j f) = sum8 xs → f xs[j] = xs[j]
  | b :: bs, 0, _, h => by
    simpa [BitVec.add_left_inj] using h
  | b :: bs, j + 1, hj, h => by
    have hbs : sum8 (bs.modify j f) = sum8 bs := by
      simpa [BitVec.add_right_inj] using h
    exact eq_of_sum8_modify_eq (Nat.lt_of_succ_lt_succ hj) hbs

theorem xor_twoPow_ne {bit : Nat} (h : bit < 8) (b : Byte) : b ^^^ BitVec.twoPow 8 bit ≠ b := by
  intro heq
  have hbit := congrArg (BitVec.getLsbD · bit) heq
  simp [h] at hbit

/-- A checked body whose bytes do not sum to 0 is refused whole. -/
theorem decodeBody_of_sum_ne_zero (kind : KindId) (t : Byte) {n : Nat} {body : List Byte}
    (hlen : body.length = n + 1) (hsum : sum8 body ≠ 0) (rest : List Byte) :
    decodeBody kind t n true (body ++ rest) = (.failure .checksumMismatch .ck, 5 + n) := by
  obtain rfl | ⟨q, c, rfl⟩ := body.eq_nil_or_concat
  · simp at hlen
  · obtain rfl : n = q.length := by simpa using hlen.symm
    simp only [List.concat_eq_append] at hsum ⊢
    rw [List.append_assoc, List.singleton_append, decodeBody_checked, if_neg hsum]

/-- Settles O35: the flipped bit changes the sum of payload and checksum byte, which was 0
(`eq_of_sum8_modify_eq`). -/
theorem singleBitErrorsAreDetected : Obligations.SingleBitErrorsAreDetected := by
  unfold Obligations.SingleBitErrorsAreDetected
  intro c wt p rest i bit hne hp hkind hi hlast hbit
  obtain ⟨kind, hexpects, hlen⟩ : ∃ kind, Expects c wt kind (BitVec.ofNat 8 p.length) true ∧
      (BitVec.ofNat 8 p.length).toNat = p.length := by
    rcases hkind with hk | ⟨k, hk, hhc, hsize⟩
    · exact ⟨.unknown, expects_unknown hk hp⟩
    · exact ⟨.known k, hhc ▸ expects_known hk hsize.symm hne⟩
  obtain ⟨j, rfl⟩ := Nat.exists_eq_add_of_le' hi
  rw [frameOf_length, if_neg hne, if_pos rfl] at hlast ⊢
  have hj : j < (p ++ [checksumOf p]).length := by
    rw [List.length_append, List.length_singleton]
    omega
  have hsum : sum8 ((p ++ [checksumOf p]).modify j fun b => b ^^^ BitVec.twoPow 8 bit) ≠ 0 := by
    rw [← sum8_append_checksumOf p]
    exact fun heq => xor_twoPow_ne hbit _ (eq_of_sum8_modify_eq hj heq)
  rw [frameOf_of_ne_nil wt true hne, if_pos rfl]
  simp only [List.modify_succ_cons, List.cons_append]
  rw [hexpects.decodeStream, hlen, decodeBody_of_sum_ne_zero kind wt (by simp) hsum,
    show 5 + p.length = p.length + 4 + 1 by omega]

end Sys2Proof.Machine

namespace Sys2Proof.Machine

/-!
### The deframer computes decode (42_deframer.md R102)

The deframer's registers say which bytes of a frame they have been left by (`RxRegs.taken`). Along a frame those
bytes and the unread ones make up the stream, and a result is the stream's decode with the bytes it consumes taken
(`RxRegs.Follows`). Every prompt turn keeps that (`Receiving.turn`), and 260 turns reach the result.
-/

/-- The bytes of the frame in progress that the deframer has consumed, read off its registers. -/
def RxRegs.taken (r : RxRegs) : List Byte :=
  match r.state with
  | .idle => []
  | .sync1 => []
  | .sync2 => [0xAA]
  | .type => [0xAA, 0x55]
  | .probe => [0xAA, 0x55, r.wireType]
  | .len => [0xAA, 0x55, r.wireType]
  | .payload => 0xAA :: 0x55 :: r.wireType :: lenByte r.size r.hc :: Buf.take r.buf r.idx.toNat
  | .ck => 0xAA :: 0x55 :: r.wireType :: lenByte r.size r.hc :: Buf.take r.buf r.size.toNat
  | .done => []
  | .failed => []

/-- The record offered is decode of the stream `bs`, and `unread` is what it leaves. -/
def RxRegs.Decoded (kind3b : Bool) (r : RxRegs) (bs unread : List Byte) : Prop :=
  ∃ got, bs = got ++ unread ∧ decodeStream kind3b bs = (r.record, got.length)

/-- The registers stand where decode of the stream `bs` stands with `unread` to come. RX_LEN of an unknown type is
reached only with a byte to read (R95), RX_CK of a known kind only with a payload (R97). -/
def RxRegs.Follows (kind3b : Bool) (r : RxRegs) (bs unread : List Byte) : Prop :=
  match r.state with
  | .idle => False
  | .sync1 => bs = r.taken ++ unread
  | .sync2 => bs = r.taken ++ unread
  | .type => bs = r.taken ++ unread
  | .probe => bs = r.taken ++ unread
  | .len => bs = r.taken ++ unread ∧ (r.kind = .unknown → unread ≠ [])
  | .payload => bs = r.taken ++ unread
  | .ck => bs = r.taken ++ unread ∧ (r.size = 0 → r.kind = .unknown)
  | .done => r.Decoded kind3b bs unread
  | .failed => r.Decoded kind3b bs unread

section Follows
variable {kind3b : Bool} {r : RxRegs} {got unread bs : List Byte} {b : Byte}

theorem RxRegs.follows_raise {st : Status} {p : RxState}
    (h : decodeStream kind3b (got ++ unread) = (.failure st p, got.length)) :
    (r.raise st p).Follows kind3b (got ++ unread) unread :=
  ⟨got, rfl, (r.record_raise st p).symm ▸ h⟩

theorem RxRegs.follows_finish {st : Status}
    (h : decodeStream kind3b (got ++ unread) =
      (.packet st r.kind r.wireType r.hc r.size (Buf.take r.buf r.size.toNat), got.length)) :
    (r.finish st).Follows kind3b (got ++ unread) unread :=
  ⟨got, rfl, (r.record_finish st).symm ▸ h⟩

/-- The registers RX_TYPE wrote name an expected frame, once a size is known (R94, R96). -/
theorem RxRegs.typed.expects (h : r.typed kind3b) (hle : r.size.toNat ≤ 254)
    (hsize : r.size = 0 → r.kind = .unknown) : Expects kind3b r.wireType r.kind r.size r.hc := by
  unfold RxRegs.typed at h
  cases hk : r.kind with
  | known k =>
    simp only [hk] at h
    obtain ⟨hkind, hhc, hrow⟩ := h
    exact ⟨hkind, hhc, hrow, fun h0 => by simpa [hk] using hsize h0⟩
  | unknown =>
    simp only [hk] at h
    obtain ⟨hkind, hhc⟩ := h
    exact ⟨hkind, hhc, hle⟩

/-- What the invariant says in RX_PAYLOAD, with the frame it expects. -/
theorem RxRegs.Inv.payload (h : r.Inv kind3b) (hs : r.state = .payload) :
    Expects kind3b r.wireType r.kind r.size r.hc ∧ r.size ≠ 0 ∧ r.idx.toNat < r.size.toNat := by
  simp only [RxRegs.Inv, hs] at h
  obtain ⟨htyped, hle, hidx, -⟩ := h
  have hsize : r.size ≠ 0 := by
    intro h0
    simp [h0] at hidx
  exact ⟨htyped.expects hle fun h0 => absurd h0 hsize, hsize, hidx⟩

/-- What the invariant says in RX_CK, with the frame it expects. -/
theorem RxRegs.Inv.ck (h : r.Inv kind3b) (hs : r.state = .ck) (hsize : r.size = 0 → r.kind = .unknown) :
    Expects kind3b r.wireType r.kind r.size true ∧ r.hc = true ∧
      r.acc = sum8 (Buf.take r.buf r.size.toNat) := by
  simp only [RxRegs.Inv, hs] at h
  obtain ⟨htyped, hle, hhc, -, hacc⟩ := h
  exact ⟨hhc ▸ htyped.expects hle hsize, hhc, hacc⟩

theorem length_take_size (buf : Buf) (size : Byte) : (Buf.take buf size.toNat).length = size.toNat :=
  length_take_buf _ _ size.isLt.le

/-! ### A byte of the stream is read -/

theorem RxRegs.follows_sync1 (hs : r.state = .sync1)
    (h : r.Follows kind3b bs (b :: unread)) : (r.afterByte kind3b b).Follows kind3b bs unread := by
  simp only [RxRegs.Follows, RxRegs.taken, hs] at h
  subst h
  rw [RxRegs.afterByte_sync1 _ _ hs]
  dsimp only
  split
  · rename_i hb
    subst hb
    rfl
  · rename_i hb
    exact RxRegs.follows_raise (got := [b]) (if_neg hb)

theorem RxRegs.follows_sync2 (hs : r.state = .sync2)
    (h : r.Follows kind3b bs (b :: unread)) : (r.afterByte kind3b b).Follows kind3b bs unread := by
  simp only [RxRegs.Follows, RxRegs.taken, hs] at h
  subst h
  rw [RxRegs.afterByte_sync2 _ _ hs]
  dsimp only
  split
  · rename_i hb
    subst hb
    rfl
  · rename_i hb
    exact RxRegs.follows_raise (got := [0xAA, b]) (if_neg hb)

theorem RxRegs.follows_type (hs : r.state = .type)
    (h : r.Follows kind3b bs (b :: unread)) : (r.afterByte kind3b b).Follows kind3b bs unread := by
  simp only [RxRegs.Follows, RxRegs.taken, hs] at h
  subst h
  rw [RxRegs.afterByte_type _ _ hs, RxRegs.dispatch_eq]
  cases hk : kindFor kind3b b with
  | none => exact rfl
  | some k =>
    dsimp only
    split
    · rename_i hsize
      refine ⟨[0xAA, 0x55, b], rfl, (decodeStream_header kind3b b unread).trans ?_⟩
      rw [decodeAfterType_of_size_eq_zero hk hsize, RxRegs.record_of_done rfl]
      simp [hsize]
    · exact ⟨rfl, nofun⟩

theorem RxRegs.follows_len (hs : r.state = .len) (hinv : r.Inv kind3b)
    (h : r.Follows kind3b bs (b :: unread)) : (r.afterByte kind3b b).Follows kind3b bs unread := by
  simp only [RxRegs.Follows, RxRegs.taken, hs] at h
  obtain ⟨rfl, -⟩ := h
  simp only [RxRegs.Inv, hs] at hinv
  obtain ⟨hidx, -, htyped, hsize⟩ := hinv
  have hstream := decodeStream_header kind3b r.wireType (b :: unread)
  rw [RxRegs.afterByte_len _ _ hs]
  cases hk : r.kind with
  | known k =>
    simp only [RxRegs.typed, hk] at htyped
    obtain ⟨hkind, hhc, hrow⟩ := htyped
    have hne : (framingFor k).size ≠ 0 := hrow ▸ hsize (by simp [hk])
    rw [RxRegs.afterLenByte_of_known (by simp [hk])]
    rw [decodeAfterType_known_cons hkind hne, ← hrow, ← hhc] at hstream
    split
    · rename_i hlen
      have hexpects : Expects kind3b r.wireType (.known k) r.size r.hc := ⟨hkind, hhc, hrow, hrow ▸ hne⟩
      have hb : lenByte r.size r.hc = b := BitVec.eq_of_toNat_eq (hexpects.lenByte_toNat.trans hlen.symm)
      simp [RxRegs.Follows, RxRegs.taken, hb, hidx]
    · rename_i hlen
      exact RxRegs.follows_raise (got := [0xAA, 0x55, r.wireType, b]) (hstream.trans (if_neg hlen))
  | unknown =>
    simp only [RxRegs.typed, hk] at htyped
    obtain ⟨hkind, hhc⟩ := htyped
    rw [RxRegs.afterLenByte_of_unknown hk]
    rw [decodeAfterType_unknown_cons hkind] at hstream
    split_ifs with hzero hone
    · exact RxRegs.follows_raise (got := [0xAA, 0x55, r.wireType, b]) (hstream.trans (if_pos hzero))
    · simp [RxRegs.Follows, RxRegs.taken, hk, hhc, hone, lenByte, zextFlag]
    · simp [RxRegs.Follows, RxRegs.taken, hhc, hidx, lenByte, zextFlag]

theorem RxRegs.follows_payload (hs : r.state = .payload) (hinv : r.Inv kind3b)
    (h : r.Follows kind3b bs (b :: unread)) : (r.afterByte kind3b b).Follows kind3b bs unread := by
  simp only [RxRegs.Follows, RxRegs.taken, hs] at h
  obtain ⟨hexpects, hsize, hidx⟩ := hinv.payload hs
  have htake := take_succ_of_write (write_of_lt r.buf b (hinv.idx_lt hs))
  rw [RxRegs.afterByte_payload _ _ hs]
  dsimp only
  generalize r.buf.setIfInBounds r.idx.toNat b = buf at htake ⊢
  have hbs : bs = (0xAA :: 0x55 :: r.wireType :: lenByte r.size r.hc :: Buf.take buf (r.idx.toNat + 1)) ++
      unread := by
    rw [h, htake]
    simp
  rw [RxRegs.afterPayloadByte_eq]
  by_cases hmore : r.idx.toNat + 1 < r.size.toNat
  · have hnext : (r.idx + 1).toNat = r.idx.toNat + 1 := by
      have hlt := hinv.idx_lt hs
      bv_omega
    simp only [if_pos hmore, RxRegs.Follows, RxRegs.taken, hs, hnext]
    exact hbs
  · have hlast : r.idx.toNat + 1 = r.size.toNat := by omega
    rw [hlast] at hbs
    rw [if_neg hmore]
    split
    · exact ⟨hbs, fun h0 => absurd h0 hsize⟩
    · rename_i hhc
      have hhc : r.hc = false := by simpa using hhc
      refine ⟨_, hbs, ?_⟩
      rw [RxRegs.record_of_done rfl, hbs]
      simp only [hhc] at hexpects ⊢
      exact hexpects.decodeStream_unchecked (length_take_size buf r.size) unread

theorem RxRegs.follows_ck (hs : r.state = .ck) (hinv : r.Inv kind3b)
    (h : r.Follows kind3b bs (b :: unread)) : (r.afterByte kind3b b).Follows kind3b bs unread := by
  simp only [RxRegs.Follows, RxRegs.taken, hs] at h
  obtain ⟨rfl, hsize⟩ := h
  obtain ⟨hexpects, hhc, hacc⟩ := hinv.ck hs hsize
  have hdecode := hexpects.decodeStream_checked (length_take_size r.buf r.size) b unread
  have hsum : sum8 (Buf.take r.buf r.size.toNat ++ [b]) = r.acc + b := by
    simp [sum8_append, hacc]
  rw [hsum] at hdecode
  rw [RxRegs.afterByte_ck _ _ hs, hhc, List.append_cons, RxRegs.afterCkByte]
  rw [List.append_cons] at hdecode
  split
  · rename_i hzero
    rw [if_pos hzero] at hdecode
    exact RxRegs.follows_finish (hhc ▸ hdecode)
  · rename_i hzero
    rw [if_neg hzero] at hdecode
    exact RxRegs.follows_raise hdecode

theorem RxRegs.Follows.afterByte (h : r.Follows kind3b bs (b :: unread)) (hinv : r.Inv kind3b)
    (hreads : r.state.reads = true) : (r.afterByte kind3b b).Follows kind3b bs unread := by
  cases hs : r.state with
  | sync1 => exact RxRegs.follows_sync1 hs h
  | sync2 => exact RxRegs.follows_sync2 hs h
  | type => exact RxRegs.follows_type hs h
  | len => exact RxRegs.follows_len hs hinv h
  | payload => exact RxRegs.follows_payload hs hinv h
  | ck => exact RxRegs.follows_ck hs hinv h
  | idle | probe | done | failed => simp [hs, RxState.reads] at hreads

/-! ### The stream has no byte more -/

/-- A stream that ends where the deframer reads is decoded as TRANSPORT_FAILURE there (R99, R102). -/
theorem RxRegs.Follows.decodeStream_ends (h : r.Follows kind3b bs []) (hinv : r.Inv kind3b)
    (hreads : r.state.reads = true) :
    bs = r.taken ∧ decodeStream kind3b r.taken = (.failure .transportFailure r.state, r.taken.length) := by
  cases hs : r.state with
  | sync1 | sync2 | type =>
    simp only [RxRegs.Follows, RxRegs.taken, hs, List.append_nil] at h ⊢
    exact ⟨h, rfl⟩
  | len =>
    simp only [RxRegs.Follows, RxRegs.Inv, RxRegs.typed, RxRegs.taken, hs, List.append_nil] at h hinv ⊢
    obtain ⟨hbs, hprobed⟩ := h
    obtain ⟨-, -, htyped, hsize⟩ := hinv
    refine ⟨hbs, (decodeStream_header kind3b r.wireType []).trans ?_⟩
    cases hk : r.kind with
    | unknown => exact absurd rfl (hprobed hk)
    | known k =>
      simp only [hk] at htyped
      obtain ⟨hkind, -, hrow⟩ := htyped
      exact decodeAfterType_known_nil hkind (hrow ▸ hsize (by simp [hk]))
  | payload =>
    obtain ⟨hexpects, -, hidx⟩ := hinv.payload hs
    have hq : (Buf.take r.buf r.idx.toNat).length = r.idx.toNat := length_take_buf _ _ (hinv.idx_lt hs).le
    simp only [RxRegs.Follows, RxRegs.taken, hs, List.append_nil] at h ⊢
    refine ⟨h, ?_⟩
    rw [hexpects.decodeStream, decodeBody_short _ _ (hq.trans_lt hidx), Nat.add_comm]
    rfl
  | ck =>
    simp only [RxRegs.Follows, RxRegs.taken, hs, List.append_nil] at h ⊢
    obtain ⟨hbs, hsize⟩ := h
    obtain ⟨hexpects, hhc, -⟩ := hinv.ck hs hsize
    have hnone := decodeBody_no_ck r.kind r.wireType (Buf.take r.buf r.size.toNat)
    rw [length_take_size] at hnone
    refine ⟨hbs, ?_⟩
    rw [hhc, hexpects.decodeStream, hnone, Nat.add_comm]
    simp only [List.length_cons, length_take_size]
  | idle | probe | done | failed => simp [hs, RxState.reads] at hreads

/-- A Read with no byte to come ends the frame as decode does (R99, R102). -/
theorem RxRegs.Follows.timeout (h : r.Follows kind3b bs []) (hinv : r.Inv kind3b)
    (hreads : r.state.reads = true) : (r.raise .transportFailure r.state).Follows kind3b bs [] := by
  obtain ⟨rfl, hdecode⟩ := h.decodeStream_ends hinv hreads
  have hfollows := RxRegs.follows_raise (r := r) (got := r.taken) (unread := []) (by simpa using hdecode)
  simpa using hfollows

/-- The probe finds nothing behind TYPE: the frame is complete, as decode has it (R95, R102). -/
theorem RxRegs.Follows.probe_nothing (h : r.Follows kind3b bs []) (hinv : r.Inv kind3b)
    (hs : r.state = .probe) : (r.afterPeekAnswer .nothing).Follows kind3b bs [] := by
  simp only [RxRegs.Follows, RxRegs.taken, hs] at h
  simp only [RxRegs.Inv, RxRegs.typed, hs] at hinv
  obtain ⟨-, -, htyped, hkind⟩ := hinv
  simp only [hkind] at htyped
  obtain ⟨hnone, hhc⟩ := htyped
  refine ⟨[0xAA, 0x55, r.wireType], h, ?_⟩
  rw [h, RxRegs.afterPeekAnswer, RxRegs.record_finish]
  refine (decodeStream_header kind3b r.wireType []).trans ?_
  rw [decodeAfterType_unknown_nil hnone]
  simp [hkind, hhc]

/-- The probe finds a byte, and RX_LEN has one to read (R95). -/
theorem RxRegs.Follows.probe_ready (h : r.Follows kind3b bs (b :: unread)) (hs : r.state = .probe) :
    (r.afterPeekAnswer (.ready b)).Follows kind3b bs (b :: unread) := by
  simp only [RxRegs.Follows, RxRegs.taken, hs] at h
  exact ⟨h, nofun⟩

end Follows

/-! ### A run of prompt turns -/

/-- The deframer of `s` is decoding the stream `bs`, on an open link and out of reset. -/
structure Receiving (bs : List Byte) (s : State) : Prop where
  released : s.cfg.rst = false
  isOpen : s.link.isOpen = true
  inv : s.rx.Inv s.cfg.kind3b
  follows : s.rx.Follows s.cfg.kind3b bs s.link.unread

section PromptAnswers
variable {l : Transport} (hopen : l.isOpen = true)
include hopen

theorem Transport.readAnswer_prompt_of_nil (hu : l.unread = []) : l.readAnswer .prompt = .timeout := by
  rw [readAnswer_prompt l hopen, hu]

theorem Transport.peekAnswer_prompt_of_nil (hu : l.unread = []) : l.peekAnswer .prompt = .nothing := by
  simp [Transport.peekAnswer, hopen, hu]

theorem Transport.peekAnswer_prompt_of_unread {b : Byte} {rest : List Byte} (hu : l.unread = b :: rest) :
    l.peekAnswer .prompt = .ready b := by
  simp [Transport.peekAnswer, hopen, hu]

end PromptAnswers

/-- A prompt turn leaves registers that follow the stream as it leaves it. -/
theorem Receiving.turn_follows {bs : List Byte} {s : State} (h : Receiving bs s) :
    (s.deframerTurn .prompt).rx.Follows s.cfg.kind3b bs (s.deframerTurn .prompt).link.unread := by
  obtain ⟨-, hopen, hinv, hfollows⟩ := h
  rcases s.rx.state.reads_or_probe_or_waits with hs | hs | hs
  · rw [State.deframerTurn_of_reads _ hs]
    cases hu : s.link.unread with
    | nil =>
      have ha := Transport.readAnswer_prompt_of_nil hopen hu
      rw [ha, Transport.afterRead_of_no_byte _ _ (by simp [ha])]
      exact hu.symm ▸ RxRegs.Follows.timeout (hu ▸ hfollows) hinv hs
    | cons b rest =>
      have ha := Transport.readAnswer_prompt_of_unread hopen hu
      rw [ha, Transport.afterRead_of_byte _ _ ha, hu]
      exact RxRegs.Follows.afterByte (hu ▸ hfollows) hinv hs
  · rw [State.deframerTurn_of_probe _ hs]
    simp only [Transport.afterPeek_unread]
    cases hu : s.link.unread with
    | nil =>
      rw [Transport.peekAnswer_prompt_of_nil hopen hu]
      exact (hu ▸ hfollows).probe_nothing hinv hs
    | cons b rest =>
      rw [Transport.peekAnswer_prompt_of_unread hopen hu]
      exact (hu ▸ hfollows).probe_ready hs
  · rw [State.deframerTurn_of_waits _ hs]
    exact hfollows

theorem Receiving.turn {bs : List Byte} {s : State} (h : Receiving bs s) :
    Receiving bs (s.deframerTurn .prompt) ∧ s.deframerTurn .prompt = s.withRxSide (s.deframerTurn .prompt) := by
  have hframe := deframerTurn_frame (fetchInput_deframer .prompt s h.released h.inv)
  have hcfg : (s.deframerTurn .prompt).cfg = s.cfg := (s.deframerTurn_frame .prompt).2
  refine ⟨⟨hcfg ▸ h.released, ?_, ?_, ?_⟩, hframe⟩
  · rw [hframe]
    exact h.isOpen
  · rw [hcfg]
    exact State.deframerTurn_inv .prompt h.inv
  · rw [hcfg]
    exact h.turn_follows

/-- Prompt turns off the tape: the deframer goes on decoding the same stream, each turn brings its result nearer,
and everything off its side stays as it is. -/
theorem Receiving.run {bs : List Byte} {rest : List Input} (n : Nat) : ∀ {s : State}, Receiving bs s →
    s.tape = promptTurns n ++ rest →
    ∃ t, Sys2Proof.core.run n s = .next t ∧ Receiving bs t ∧ t.rx.turnsLeft ≤ s.rx.turnsLeft - n ∧
      t = State.withRxSide { s with tape := rest } t := by
  induction n with
  | zero =>
    intro s h htape
    have htape : s.tape = rest := htape
    exact ⟨s, run_zero s, h, Nat.le_refl _, by subst htape; rfl⟩
  | succ n ih =>
    intro s h htape
    have hoff : Receiving bs { s with tape := promptTurns n ++ rest } :=
      ⟨h.released, h.isOpen, h.inv, h.follows⟩
    obtain ⟨hturn, hframe⟩ := hoff.turn
    have hleft := State.turnsLeft_deframerTurn_le .prompt hoff.inv
    obtain ⟨t, hrun, hreceiving, hnear, ht⟩ := ih hturn (State.deframerTurn_frame .prompt).1
    refine ⟨t, (run_succ s _ n (step_deframerTurn htape h.released h.inv)).trans hrun, hreceiving, ?_, ?_⟩
    · dsimp only at hleft
      omega
    · rw [ht, hframe]
      rfl

/-- With no turn left the result is offered, and is the stream's decode (R101, R102). -/
theorem Receiving.decoded {bs : List Byte} {s : State} (h : Receiving bs s) (hleft : s.rx.turnsLeft = 0) :
    s.rxResValid = true ∧ s.rx.Decoded s.cfg.kind3b bs s.link.unread := by
  have hfollows := h.follows
  cases hs : s.rx.state with
  | done => exact ⟨s.rxResValid_iff.mpr (.inl hs), by simpa only [RxRegs.Follows, hs] using hfollows⟩
  | failed => exact ⟨s.rxResValid_iff.mpr (.inr hs), by simpa only [RxRegs.Follows, hs] using hfollows⟩
  | idle => simp only [RxRegs.Follows, hs] at hfollows
  | _ => exact absurd hleft (RxRegs.turnsLeft_pos (by simp [hs, RxState.inFrame])).ne'

/-- Settles O30: the DECODE starts the frame with nothing of the stream consumed (`step_decode`), the turns follow
decode along it (`Receiving.run`), and 260 of them reach its result. -/
theorem deframerComputesDecode : Obligations.DeframerComputesDecode := by
  unfold Obligations.DeframerComputesDecode
  intro s n tmo cmds rest hidle hrst hopen hcmd hn htape
  have hstart : Receiving s.link.unread (s.decoding tmo (promptTurns n ++ rest)) :=
    ⟨hrst, hopen, ⟨rfl, rfl⟩, rfl⟩
  obtain ⟨t, hrun, hreceiving, hleft, hframe⟩ := hstart.run n rfl
  have hfirst : (s.decoding tmo (promptTurns n ++ rest)).rx.turnsLeft = 260 := rfl
  obtain ⟨hvalid, got, hstream, hdecode⟩ := hreceiving.decoded (by omega)
  have hcfg : t.cfg = s.cfg := by rw [hframe]; rfl
  rw [hcfg] at hdecode
  rw [Nat.add_comm 1 n, hdecode]
  refine ⟨t, (run_succ s _ n (step_decode htape hcmd hidle hrst)).trans hrun, hvalid, rfl, ?_, ?_⟩
  · rw [hstream, List.drop_left]
  · rw [hframe]
    exact ⟨rfl, rfl, rfl, rfl, rfl, by simp [State.decoding, Ports.take, hcmd, State.withRxSide]⟩

end Sys2Proof.Machine

namespace Sys2Proof.Machine

/-!
### Results and frames in flight (60_exceptions.md R116, R121, R132)

What a move can do to each engine's registers is said once (`Move.tx_cases`, `Move.rx_cases`); the state the
engine is in selects the cases that are left. No turn of an engine leaves it idle.
-/

/-- The framer sends unless it is idle or has a result (R23, R61). -/
theorem TxState.sends_iff (p : TxState) : p.sends = true ↔ p ≠ .idle ∧ p ≠ .done := by
  cases p <;> simp [TxState.sends]

/-- The deframer is in a frame unless it is idle or has a result (R23, R62). -/
theorem RxState.inFrame_iff (p : RxState) :
    p.inFrame = true ↔ p ≠ .idle ∧ p ≠ .done ∧ p ≠ .failed := by
  cases p <;> simp [RxState.inFrame]

/-- The framer writes in a sending state only (R33, R61). -/
theorem TxRegs.Sends.state_sends {r r' : TxRegs} {b : Byte} (h : r.Sends b r') : r.state.sends = true := by
  cases h with
  | sync1 hs | sync2 hs | type hs | len hs | payload hs | ck hs => rw [hs]; rfl

theorem RxState.inFrame_of_reads {p : RxState} (h : p.reads = true) : p.inFrame = true := by
  cases p with
  | idle | probe | done | failed => cases h
  | sync1 | sync2 | type | len | payload | ck => rfl

/-! #### An engine's turn ends in the next state of its frame or in a result -/

/-- On Ok the framer goes on with the frame or is done (R77 to R82). -/
theorem TxRegs.Sends.next_state_ne_idle {r r' : TxRegs} {b : Byte} (h : r.Sends b r') :
    r'.state ≠ .idle := by
  cases h with
  | type => split <;> simp
  | payload hs =>
    rw [TxRegs.afterPayloadByte_eq]
    split_ifs <;> simp [hs]
  | sync1 | sync2 | len | ck => simp

/-- A Write answered Error finishes the frame instead (R83). -/
theorem TxRegs.Sends.sendByte_state_ne_idle {s : State} {b : Byte} {r : TxRegs} (h : s.tx.Sends b r)
    (a : WriteAnswer) : (s.sendByte a b r).tx.state ≠ .idle := by
  rcases sendByte_cases s a b r with ⟨-, -, he⟩ | ⟨-, he⟩ <;> rw [he]
  · exact h.next_state_ne_idle
  · simp

section Deframer
variable (r : RxRegs)

theorem RxRegs.dispatch_state_ne_idle (kind3b : Bool) (t : Byte) :
    (r.dispatch kind3b t).state ≠ .idle := by
  rw [RxRegs.dispatch_eq]
  split
  · split <;> simp
  · simp

theorem RxRegs.afterLenByte_state_ne_idle (l : Byte) : (r.afterLenByte l).state ≠ .idle := by
  unfold RxRegs.afterLenByte
  split <;> split_ifs <;> simp

theorem RxRegs.afterPayloadByte_state_ne_idle (h : r.state = .payload) (b : Byte) (buf : Buf) :
    (r.afterPayloadByte b buf).state ≠ .idle := by
  rw [RxRegs.afterPayloadByte_eq]
  split_ifs <;> simp [h]

theorem RxRegs.afterCkByte_state_ne_idle (c : Byte) : (r.afterCkByte c).state ≠ .idle := by
  unfold RxRegs.afterCkByte
  split <;> simp

/-- A byte read goes on with the frame, completes it or fails it (R92 to R98). -/
theorem RxRegs.afterByte_state_ne_idle (kind3b : Bool) (h : r.state.reads = true) (b : Byte) :
    (r.afterByte kind3b b).state ≠ .idle := by
  cases hs : r.state with
  | sync1 =>
    rw [r.afterByte_sync1 kind3b hs]
    dsimp only
    split <;> simp
  | sync2 =>
    rw [r.afterByte_sync2 kind3b hs]
    dsimp only
    split <;> simp
  | type => rw [r.afterByte_type kind3b hs]; exact r.dispatch_state_ne_idle kind3b b
  | len => rw [r.afterByte_len kind3b hs]; exact r.afterLenByte_state_ne_idle b
  | payload => rw [r.afterByte_payload kind3b hs]; exact r.afterPayloadByte_state_ne_idle hs b _
  | ck => rw [r.afterByte_ck kind3b hs]; exact r.afterCkByte_state_ne_idle b
  | idle | probe | done | failed => simp [hs, RxState.reads] at h

/-- Whatever the probe answers, the frame goes on, completes or fails (R95). -/
theorem RxRegs.afterPeekAnswer_state_ne_idle (a : PeekAnswer) :
    (r.afterPeekAnswer a).state ≠ .idle := by
  cases a <;> simp [RxRegs.afterPeekAnswer]

end Deframer

/-! #### What a move does to an engine's registers -/

section Moves
variable {i : Input} {s t : State}

/-- The framer's turn waits, or makes the one Write of its state (R33, R84). -/
theorem Move.framer_cases {a : WriteAnswer} (hm : Move (.framer a) s t) :
    t = s ∨ ∃ b r, s.tx.Sends b r ∧ t = s.sendByte a b r := by
  cases hm with
  | waitFramer => exact .inl rfl
  | txSync1 _ _ hs => exact .inr ⟨_, _, .sync1 hs, rfl⟩
  | txSync2 _ _ hs => exact .inr ⟨_, _, .sync2 hs, rfl⟩
  | txType _ _ hs => exact .inr ⟨_, _, .type hs, rfl⟩
  | txLen _ _ hs => exact .inr ⟨_, _, .len hs, rfl⟩
  | txPayload _ _ b hs hb => exact .inr ⟨_, _, .payload hs b hb, rfl⟩
  | txCk _ _ hs => exact .inr ⟨_, _, .ck hs, rfl⟩

/-- The framer's registers change by ENCODE acceptance, by its own turn within a frame, by TXDONE or by rst. -/
theorem Move.tx_cases (hm : Move i s t) :
    t.tx = s.tx ∨
      (i = .host .txCmd ∧ s.tx.state = .idle) ∨
      (∃ a, i = .framer a ∧ s.tx.state.sends = true ∧ t.tx.state ≠ .idle) ∨
      (i = .host .txDone ∧ s.tx.state = .done ∧ t.tx = s.tx.toIdle) ∨
      (∃ level, i = .rst level) := by
  cases i with
  | framer a =>
    rcases hm.framer_cases with rfl | ⟨b, r, hsends, rfl⟩
    · exact .inl rfl
    · exact .inr (.inr (.inl ⟨a, rfl, hsends.state_sends, hsends.sendByte_state_ne_idle a⟩))
  | host p =>
    cases hm with
    | encode _ _ _ _ _ hidle => exact .inr (.inl ⟨rfl, hidle⟩)
    | txdone _ _ _ _ hdone => exact .inr (.inr (.inr (.inl ⟨rfl, hdone, rfl⟩)))
    | decode | rxres | waitHost => exact .inl rfl
  | rst level => exact .inr (.inr (.inr (.inr ⟨level, rfl⟩)))
  | offer | deframer | arrive | config | link | avail => cases hm <;> exact .inl rfl

/-- The deframer's registers change by DECODE acceptance, by its own turn within a frame, by RXRES or by rst. -/
theorem Move.rx_cases (hm : Move i s t) :
    t.rx = s.rx ∨
      (i = .host .rxCmd ∧ s.rx.state = .idle) ∨
      (∃ d, i = .deframer d ∧ s.rx.state.inFrame = true ∧ t.rx.state ≠ .idle) ∨
      (i = .host .rxRes ∧ (s.rx.state = .done ∨ s.rx.state = .failed) ∧ t.rx = s.rx.toIdle) ∨
      (∃ level, i = .rst level) := by
  cases hm with
  | decode _ _ _ _ hidle => exact .inr (.inl ⟨rfl, hidle⟩)
  | readFailed d _ _ hs => exact .inr (.inr (.inl ⟨d, rfl, RxState.inFrame_of_reads hs, by simp⟩))
  | readByte d _ b _ _ hs _ _ _ _ hr =>
    rw [eq_afterByte_of_readByte hr]
    exact .inr (.inr (.inl ⟨d, rfl, RxState.inFrame_of_reads hs, s.rx.afterByte_state_ne_idle _ hs b⟩))
  | probe d _ hs =>
    rw [rxProbeStep_eq]
    exact .inr (.inr (.inl ⟨d, rfl, by rw [hs]; rfl, s.rx.afterPeekAnswer_state_ne_idle _⟩))
  | rxres _ _ _ _ hresult => exact .inr (.inr (.inr (.inl ⟨rfl, hresult, rfl⟩)))
  | rst level => exact .inr (.inr (.inr (.inr ⟨level, rfl⟩)))
  | _ => exact .inl rfl

end Moves

/-- Settles O49: in a result state `Move.tx_cases` and `Move.rx_cases` leave the host's acceptance and rst. -/
theorem onlyAcceptanceOrResetLeavesAResult : Obligations.OnlyAcceptanceOrResetLeavesAResult := by
  unfold Obligations.OnlyAcceptanceOrResetLeavesAResult
  intro s t hstep
  rcases step_cases s t hstep with ⟨-, rfl⟩ | ⟨i, rest, htape, hmove⟩
  · exact ⟨fun _ hne => absurd rfl hne, fun _ hne => absurd rfl hne⟩
  · refine ⟨fun hdone hne => ?_, fun hresult hne => ?_⟩
    · rcases hmove.tx_cases with hsame | ⟨-, hidle⟩ | ⟨a, -, hsends, -⟩ | ⟨rfl, -, htx⟩ | ⟨level, rfl⟩
      · exact absurd hsame hne
      · cases hdone.symm.trans hidle
      · exact absurd hdone ((TxState.sends_iff _).mp hsends).2
      · exact .inl ⟨rest, htape, htx⟩
      · exact .inr ⟨level, rest, htape⟩
    · rcases hmove.rx_cases with hsame | ⟨-, hidle⟩ | ⟨d, -, hframe, -⟩ | ⟨rfl, -, hrx⟩ | ⟨level, rfl⟩
      · exact absurd hsame hne
      · rcases hresult with hs | hs <;> cases hs.symm.trans hidle
      · obtain ⟨-, hdone, hfailed⟩ := (RxState.inFrame_iff _).mp hframe
        exact absurd hresult (not_or.mpr ⟨hdone, hfailed⟩)
      · exact .inl ⟨rest, htape, hrx⟩
      · exact .inr ⟨level, rest, htape⟩

/-- Settles O50: within a frame `Move.rx_cases` and `Move.tx_cases` leave the engine's own turn, which does not
end in idle, and rst. -/
theorem noMidFrameCancellation : Obligations.NoMidFrameCancellation := by
  unfold Obligations.NoMidFrameCancellation
  intro s t hstep
  rcases step_cases s t hstep with ⟨-, rfl⟩ | ⟨i, rest, htape, hmove⟩
  · exact ⟨fun hframe => ⟨.inl rfl, fun _ => ((RxState.inFrame_iff _).mp hframe).1⟩,
      fun hsends => ⟨.inl rfl, fun _ => ((TxState.sends_iff _).mp hsends).1⟩⟩
  · refine ⟨fun hframe => ?_, fun hsends => ?_⟩
    · obtain ⟨hbusy, hdone, hfailed⟩ := (RxState.inFrame_iff _).mp hframe
      rcases hmove.rx_cases with hsame | ⟨-, hidle⟩ | ⟨d, rfl, -, hnext⟩ | ⟨-, hresult, -⟩ | ⟨level, rfl⟩
      · exact ⟨.inl hsame, fun _ => hsame ▸ hbusy⟩
      · exact absurd hidle hbusy
      · exact ⟨.inr (.inl ⟨d, rest, htape⟩), fun _ => hnext⟩
      · exact absurd hresult (not_or.mpr ⟨hdone, hfailed⟩)
      · exact ⟨.inr (.inr ⟨level, rest, htape⟩), fun hno => absurd htape (hno level rest)⟩
    · obtain ⟨hbusy, hnotDone⟩ := (TxState.sends_iff _).mp hsends
      rcases hmove.tx_cases with hsame | ⟨-, hidle⟩ | ⟨a, rfl, -, hnext⟩ | ⟨-, hdone, -⟩ | ⟨level, rfl⟩
      · exact ⟨.inl hsame, fun _ => hsame ▸ hbusy⟩
      · exact absurd hidle hbusy
      · exact ⟨.inr (.inl ⟨a, rest, htape⟩), fun _ => hnext⟩
      · exact absurd hdone hnotDone
      · exact ⟨.inr (.inr ⟨level, rest, htape⟩), fun hno => absurd htape (hno level rest)⟩

/-! #### Several links (R121) -/

/-- A step of link `k` is the step of its own state, put in its place; a number without a link steps nothing. -/
theorem stepLink_cases {k : Nat} {sys sys' : List State} (h : stepLink k sys = .next sys') :
    (sys[k]? = none ∧ sys' = sys) ∨
      ∃ s t, sys[k]? = some s ∧ step s = .next t ∧ sys' = sys.set k t := by
  unfold stepLink at h
  split at h
  · rename_i hnone
    cases h
    exact .inl ⟨hnone, rfl⟩
  · rename_i s hsome
    cases hstep : step s with
    | next t =>
      rw [hstep] at h
      cases h
      exact .inr ⟨s, t, hsome, hstep, rfl⟩
    | fault r | refused r =>
      rw [hstep] at h
      cases h

/-- Settles O57: writing one element of a list leaves the others and the length (`stepLink_cases`). -/
theorem instancesAreIndependent : Obligations.InstancesAreIndependent := by
  unfold Obligations.InstancesAreIndependent
  intro sys sys' k hstep
  rcases stepLink_cases hstep with ⟨hnone, rfl⟩ | ⟨s, t, hs, hst, rfl⟩
  · exact ⟨rfl, fun _ _ => rfl, fun s hs => by cases hnone.symm.trans hs⟩
  · refine ⟨List.length_set, fun j hj => List.getElem?_set_ne hj.symm, fun s' hs' => ?_⟩
    cases hs.symm.trans hs'
    obtain ⟨hk, -⟩ := List.getElem?_eq_some_iff.mp hs
    exact ⟨t, hst, List.getElem?_set_self hk⟩

end Sys2Proof.Machine

namespace Sys2Proof.Machine

/-!
### Steps of a frame that completes (70_reset_and_hazards.md R135)

Every turn of a frame reads one byte of the stream or is the probe of an unknown type. The registers say whether the
probe has been made (`RxRegs.probes`), so the turns made are the bytes gone and that probe (`Completing.turns`). A
turn within the frame keeps the count (`Completing.turn`), and the result stands exactly where the count meets
decode's.
-/

/-- The probes that a frame of this kind takes (R95). -/
def KindId.probes (k : KindId) : Nat := if k = .unknown then 1 else 0

/-- The probes that the frame in progress, or the completed one, has made: its probe stands between RX_TYPE and
RX_LEN. -/
def RxRegs.probes (r : RxRegs) : Nat :=
  match r.state with
  | .idle => 0
  | .sync1 => 0
  | .sync2 => 0
  | .type => 0
  | .probe => 0
  | .len => r.kind.probes
  | .payload => r.kind.probes
  | .ck => r.kind.probes
  | .done => r.kind.probes
  | .failed => 0

section Probes
variable {r : RxRegs}

theorem RxRegs.probes_dispatch (r : RxRegs) (kind3b : Bool) (t : Byte) :
    (r.dispatch kind3b t).probes = 0 := by
  rw [RxRegs.dispatch_eq]
  cases kindFor kind3b t with
  | none => rfl
  | some k =>
    dsimp only
    split <;> rfl

theorem RxRegs.probes_afterLenByte (l : Byte) (h : (r.afterLenByte l).state ≠ .failed) :
    (r.afterLenByte l).probes = r.kind.probes := by
  by_cases hk : r.kind = .unknown
  · rw [RxRegs.afterLenByte_of_unknown hk] at h ⊢
    split_ifs at h ⊢
    · exact absurd rfl h
    · rfl
    · rfl
  · rw [RxRegs.afterLenByte_of_known hk] at h ⊢
    split_ifs at h ⊢
    · rfl
    · exact absurd rfl h

theorem RxRegs.probes_afterPayloadByte (hs : r.state = .payload) (b : Byte) (buf : Buf) :
    (r.afterPayloadByte b buf).probes = r.kind.probes := by
  rw [RxRegs.afterPayloadByte_eq]
  split_ifs
  · simp [RxRegs.probes, hs]
  · rfl
  · rfl

theorem RxRegs.probes_afterCkByte (c : Byte) (h : (r.afterCkByte c).state ≠ .failed) :
    (r.afterCkByte c).probes = r.kind.probes := by
  unfold RxRegs.afterCkByte at h ⊢
  dsimp only at h ⊢
  split_ifs at h ⊢
  · rfl
  · exact absurd rfl h

/-- A byte read is no probe. -/
theorem RxRegs.probes_afterByte (kind3b : Bool) (b : Byte) (hreads : r.state.reads = true)
    (h : (r.afterByte kind3b b).state ≠ .failed) : (r.afterByte kind3b b).probes = r.probes := by
  have hprobes : ∀ p, r.state = p → r.probes = { r with state := p }.probes := by
    rintro p rfl
    rfl
  cases hs : r.state with
  | sync1 =>
    rw [hprobes _ hs, RxRegs.afterByte_sync1 _ _ hs]
    dsimp only
    split <;> rfl
  | sync2 =>
    rw [hprobes _ hs, RxRegs.afterByte_sync2 _ _ hs]
    dsimp only
    split <;> rfl
  | type =>
    rw [hprobes _ hs, RxRegs.afterByte_type _ _ hs]
    exact r.probes_dispatch kind3b b
  | len =>
    rw [RxRegs.afterByte_len _ _ hs] at h ⊢
    exact (RxRegs.probes_afterLenByte b h).trans (hprobes _ hs).symm
  | payload =>
    rw [hprobes _ hs, RxRegs.afterByte_payload _ _ hs]
    exact RxRegs.probes_afterPayloadByte hs b _
  | ck =>
    rw [RxRegs.afterByte_ck _ _ hs] at h ⊢
    exact (RxRegs.probes_afterCkByte b h).trans (hprobes _ hs).symm
  | idle | probe | done | failed => simp [hs, RxState.reads] at hreads

/-- RX_PROBE is reached by an unknown type, and the probe leaves it (R94, R95). -/
theorem RxRegs.probes_afterPeekAnswer {kind3b : Bool} (hs : r.state = .probe) (hinv : r.Inv kind3b)
    {a : PeekAnswer} (h : (r.afterPeekAnswer a).state ≠ .failed) :
    (r.afterPeekAnswer a).probes = r.probes + 1 := by
  simp only [RxRegs.Inv, hs] at hinv
  obtain ⟨-, -, -, hkind⟩ := hinv
  have hnow : r.probes = 0 := by simp only [RxRegs.probes, hs]
  have hprobe : r.kind.probes = 1 := if_pos hkind
  rw [hnow, Nat.zero_add, ← hprobe]
  cases a with
  | nothing | ready => rfl
  | error => exact absurd rfl h

end Probes

/-- `n` turns into the decoding of the stream `bs`, whose decode is a Packet of this kind with `consumed` bytes. -/
structure Completing (bs : List Byte) (kind : KindId) (consumed n : Nat) (s : State) : Prop where
  receiving : Receiving bs s
  decodes : ∃ st wt hc len p, decodeStream s.cfg.kind3b bs = (.packet st kind wt hc len p, consumed)
  turns : n + s.link.unread.length = bs.length + s.rx.probes

section Completing
variable {bs : List Byte} {kind : KindId} {consumed n : Nat} {s : State}

/-- A stream that decodes to a Packet does not fail the deframer. -/
theorem Receiving.state_ne_failed {st : Status} {wt : Byte} {hc : Bool} {len : Byte} {p : List Byte}
    (h : Receiving bs s)
    (hdecode : decodeStream s.cfg.kind3b bs = (.packet st kind wt hc len p, consumed)) :
    s.rx.state ≠ .failed := by
  intro hs
  have hfollows := h.follows
  simp only [RxRegs.Follows, hs] at hfollows
  obtain ⟨got, -, hrecord⟩ := hfollows
  rw [hdecode, RxRegs.record_of_not_done (by simp [hs])] at hrecord
  cases hrecord

theorem Completing.inFrame_or_done (h : Completing bs kind consumed n s) :
    s.rx.state.inFrame = true ∨ s.rx.state = .done := by
  obtain ⟨st, wt, hc, len, p, hdecode⟩ := h.decodes
  have hfailed := h.receiving.state_ne_failed hdecode
  have hidle : s.rx.state ≠ .idle := by
    intro hs
    have hfollows := h.receiving.follows
    simp only [RxRegs.Follows, hs] at hfollows
  rw [RxState.inFrame_iff]
  tauto

/-- The result stands after a turn for each byte consumed and the probe. -/
theorem Completing.turns_of_done (h : Completing bs kind consumed n s) (hs : s.rx.state = .done) :
    n = consumed + kind.probes := by
  obtain ⟨st, wt, hc, len, p, hdecode⟩ := h.decodes
  have hfollows := h.receiving.follows
  simp only [RxRegs.Follows, hs] at hfollows
  obtain ⟨got, hstream, hrecord⟩ := hfollows
  rw [hdecode, RxRegs.record_of_done hs] at hrecord
  simp only [Prod.mk.injEq, RxRecord.packet.injEq] at hrecord
  obtain ⟨⟨-, hkind, -⟩, hconsumed⟩ := hrecord
  have hprobes : s.rx.probes = kind.probes := by simp only [RxRegs.probes, hs, hkind]
  have hlength := congrArg List.length hstream
  rw [List.length_append] at hlength
  have hturns := h.turns
  omega

/-- A turn within the frame that does not fail it reads a byte of the stream or makes the probe. -/
theorem Receiving.turn_counts (h : Receiving bs s) (hs : s.rx.state.inFrame = true)
    (hok : (s.deframerTurn .prompt).rx.state ≠ .failed) :
    (s.deframerTurn .prompt).link.unread.length + 1 + s.rx.probes =
      s.link.unread.length + (s.deframerTurn .prompt).rx.probes := by
  rcases RxState.reads_or_probe_of_inFrame hs with hreads | hprobe
  · rw [State.deframerTurn_of_reads _ hreads] at hok ⊢
    dsimp only at hok ⊢
    cases hu : s.link.unread with
    | nil =>
      rw [Transport.readAnswer_prompt_of_nil h.isOpen hu] at hok
      exact absurd rfl hok
    | cons b rest =>
      have ha := Transport.readAnswer_prompt_of_unread h.isOpen hu
      rw [ha] at hok
      have hsame := RxRegs.probes_afterByte s.cfg.kind3b b hreads hok
      rw [ha, Transport.afterRead_of_byte _ _ ha, hu, RxRegs.afterReadAnswer, hsame]
      rfl
  · rw [State.deframerTurn_of_probe _ hprobe] at hok ⊢
    have hone := RxRegs.probes_afterPeekAnswer hprobe h.inv hok
    simp only [Transport.afterPeek_unread, hone]
    omega

/-- A turn within the frame is counted. -/
theorem Completing.turn (h : Completing bs kind consumed n s) (hs : s.rx.state.inFrame = true) :
    Completing bs kind consumed (n + 1) (s.deframerTurn .prompt) := by
  obtain ⟨hreceiving, ⟨st, wt, hc, len, p, hdecode⟩, hturns⟩ := h
  have hcfg : (s.deframerTurn .prompt).cfg = s.cfg := (s.deframerTurn_frame .prompt).2
  obtain ⟨hnext, -⟩ := hreceiving.turn
  rw [← hcfg] at hdecode
  have hcount := hreceiving.turn_counts hs (hnext.state_ne_failed hdecode)
  exact ⟨hnext, ⟨st, wt, hc, len, p, hdecode⟩, by omega⟩

/-- Within the frame there are turns to come: each brings the result nearer, and there the count is decode's. -/
theorem Completing.turns_lt_of_inFrame {n : Nat} {s : State} (h : Completing bs kind consumed n s)
    (hs : s.rx.state.inFrame = true) : n < consumed + kind.probes := by
  have hnext := h.turn hs
  rcases hnext.inFrame_or_done with hs' | hdone
  · have hnear := State.turnsLeft_deframerTurn_le .prompt h.receiving.inv
    have hpos := RxRegs.turnsLeft_pos hs
    have hlt := hnext.turns_lt_of_inFrame hs'
    omega
  · have heq := hnext.turns_of_done hdone
    omega
termination_by s.rx.turnsLeft

theorem Completing.done_iff (h : Completing bs kind consumed n s) :
    s.rx.state = .done ↔ n = consumed + kind.probes := by
  refine ⟨h.turns_of_done, fun hn => ?_⟩
  rcases h.inFrame_or_done with hs | hs
  · have hlt := h.turns_lt_of_inFrame hs
    omega
  · exact hs

theorem Completing.inFrame_of_lt (h : Completing bs kind consumed n s) (hn : n < consumed + kind.probes) :
    s.rx.state.inFrame = true :=
  h.inFrame_or_done.resolve_right fun hs => hn.ne (h.done_iff.mp hs)

/-- Turns off the tape, no more than the frame takes, are all counted. -/
theorem Completing.run {rest : List Input} (k : Nat) : ∀ {n : Nat} {s : State},
    Completing bs kind consumed n s → s.tape = promptTurns k ++ rest → n + k ≤ consumed + kind.probes →
    ∃ t, Sys2Proof.core.run k s = .next t ∧ Completing bs kind consumed (n + k) t := by
  induction k with
  | zero => exact fun h _ _ => ⟨_, run_zero _, h⟩
  | succ k ih =>
    intro n s h htape hle
    have hs := h.inFrame_of_lt (by omega)
    obtain ⟨⟨hrst, hopen, hinv, hfollows⟩, hdecodes, hturns⟩ := h
    have hoff : Completing bs kind consumed n { s with tape := promptTurns k ++ rest } :=
      ⟨⟨hrst, hopen, hinv, hfollows⟩, hdecodes, hturns⟩
    obtain ⟨t, hrun, ht⟩ := ih (hoff.turn hs) (State.deframerTurn_frame .prompt).1 (by omega)
    refine ⟨t, (run_succ s _ k (step_deframerTurn htape hrst hinv)).trans hrun, ?_⟩
    rwa [Nat.add_assoc, Nat.add_comm 1 k] at ht

end Completing

/-- Settles O31: the DECODE starts the count at 0 (`step_decode`), every turn adds one (`Completing.run`), and the
result stands exactly at decode's count (`Completing.done_iff`). -/
theorem completedFrameTakesOneStepPerByte : Obligations.CompletedFrameTakesOneStepPerByte := by
  unfold Obligations.CompletedFrameTakesOneStepPerByte
  intro s n tmo cmds rest st kind wt hc len p consumed hidle hrst hopen hcmd hdecode htape hn
  have hstart : Completing s.link.unread kind consumed 0 (s.decoding tmo (promptTurns n ++ rest)) :=
    ⟨⟨hrst, hopen, ⟨rfl, rfl⟩, rfl⟩, ⟨st, wt, hc, len, p, hdecode⟩, Nat.zero_add _⟩
  obtain ⟨t, hrun, ht⟩ := hstart.run n rfl ((Nat.zero_add n).symm ▸ hn)
  rw [Nat.zero_add] at ht
  rw [Nat.add_comm 1 n]
  exact ⟨t, (run_succ s _ n (step_decode htape hcmd hidle hrst)).trans hrun, ht.done_iff, ht.inFrame_of_lt⟩

end Sys2Proof.Machine

namespace Sys2Proof.Machine

/-!
### Configuration changes, reset and lost frames (70_reset_and_hazards.md R124, R127, R130)
-/

/-! #### Lost sync (R92, R93, R130) -/

theorem decodeStream_of_not_sync1 (kind3b : Bool) {b : Byte} (h : b ≠ 0xAA) (rest : List Byte) :
    decodeStream kind3b (b :: rest) = (.failure .resync .sync1, 1) :=
  if_neg h

theorem decodeStream_of_not_sync2 (kind3b : Bool) {b : Byte} (h : b ≠ 0x55) (rest : List Byte) :
    decodeStream kind3b (0xAA :: b :: rest) = (.failure .resync .sync2, 2) :=
  if_neg h

/-- Settles O36: the real SYNC1 is no SYNC2, and a SYNC2 is no SYNC1. -/
theorem straySyncLosesTheFrame : Obligations.StraySyncLosesTheFrame := by
  unfold Obligations.StraySyncLosesTheFrame
  intro c rest
  exact ⟨decodeStream_of_not_sync2 c (by decide) (0x55 :: rest), decodeStream_of_not_sync1 c (by decide) rest⟩

/-! #### The configuration is driven (R16, R48, R127) -/

section Drive
variable {s : State} {k : Bool} {n : Nat}

theorem driveConfig_of_changed_while_busy (hbusy : s.rxBusy = true)
    (hchanged : ¬(k = s.cfg.kind3b ∧ n = s.cfg.peekTimeout)) :
    driveConfig k n s = .fault .configChangedWhileBusy :=
  if_pos ⟨hbusy, hchanged⟩

theorem driveConfig_of_idle_or_unchanged
    (h : s.rxBusy = false ∨ (k = s.cfg.kind3b ∧ n = s.cfg.peekTimeout)) :
    driveConfig k n s = .next { s with cfg := { s.cfg with kind3b := k, peekTimeout := n } } := by
  refine if_neg ?_
  rintro ⟨hbusy, hchanged⟩
  rcases h with hidle | hsame
  · simp [hidle] at hbusy
  · exact hchanged hsame

theorem step_config {rest : List Input} (htape : s.tape = .config k n :: rest) :
    step s = driveConfig k n { s with tape := rest } :=
  step_cons s _ rest htape

end Drive

/-- Settles O42: the move is `driveConfig`, whose test tells the two clauses apart. -/
theorem configurationIsStaticWhileBusy : Obligations.ConfigurationIsStaticWhileBusy := by
  unfold Obligations.ConfigurationIsStaticWhileBusy
  intro s k n rest htape
  rw [step_config htape]
  exact ⟨driveConfig_of_changed_while_busy (s := { s with tape := rest }),
    driveConfig_of_idle_or_unchanged (s := { s with tape := rest })⟩

/-! #### rst is driven (R124) -/

theorem driveReset_of_released {s : State} (h : s.cfg.rst = false) : driveReset false s = s :=
  if_neg (by simp [h])

theorem driveReset_of_asserted {s : State} {level : Bool} (h : level = true ∨ s.cfg.rst = true) :
    driveReset level s = State.blockReset { s with cfg := { s.cfg with rst := level } } :=
  if_pos h

theorem step_rst {s : State} {level : Bool} {rest : List Input} (htape : s.tape = .rst level :: rest) :
    step s = .next (driveReset level { s with tape := rest }) :=
  step_cons s _ rest htape

section UnderReset
variable {s : State} (hrst : s.cfg.rst = true)
include hrst

theorem step_framer_under_reset {a : WriteAnswer} {rest : List Input} (htape : s.tape = .framer a :: rest) :
    step s = .next { s with tape := rest } := by
  rw [step_cons s _ rest htape, fetchInput, if_pos hrst, Fetched.outcome_did]

theorem step_deframer_under_reset {d : Draw} {rest : List Input} (htape : s.tape = .deframer d :: rest) :
    step s = .next { s with tape := rest } := by
  rw [step_cons s _ rest htape, fetchInput, if_pos hrst, Fetched.outcome_did]

/-- An ENCODE waits while rst is asserted, at an idle framer too (R14, R124). -/
theorem exec_encode_under_reset (wt : Byte) (hc : Bool) {p : List Byte} (hp : p.length ≤ 255) :
    exec (.encode wt hc p) s = .next s := by
  have hmax : ¬ Config.maxPayload < p.length := Nat.not_lt.mpr hp
  simp [exec, execEncode, hmax, hrst]

/-- A DECODE waits while rst is asserted, at an idle deframer too (R14, R124). -/
theorem exec_decode_under_reset (n : Timeout) : exec (.decode n) s = .next s := by
  simp [exec, execDecode, hrst]

end UnderReset

/-- Settles O48: rst at 1, or released from 1, is a block reset (`driveReset_of_asserted`), whose fields are
the laws of `State.blockReset`; under reset nothing steps and no command is accepted. -/
theorem resetAbandonsBothFrames : Obligations.ResetAbandonsBothFrames := by
  unfold Obligations.ResetAbandonsBothFrames
  intro s rest
  refine ⟨fun hreleased htape => ?_, fun level htape hlevel => ?_, fun hrst => ?_⟩
  · rw [step_rst htape, driveReset_of_released]
    exact hreleased
  · refine ⟨_, step_rst htape, ?_⟩
    rw [driveReset_of_asserted (s := { s with tape := rest }) hlevel]
    simp
  · exact ⟨fun _ => step_framer_under_reset hrst, fun _ => step_deframer_under_reset hrst,
      fun wt hc _ => exec_encode_under_reset hrst wt hc, exec_decode_under_reset hrst⟩

end Sys2Proof.Machine
